-- ==== Sys2Proof/Word.lean ====
section
/-! DEFINITION. The word types of the block: every stored or transmitted unit is one byte (20_memory.md R32),
a command and a response are 32 bits (30_encoding.md R51, R52), a WAIT operand is 28 bits (R52). -/

namespace Sys2Proof

/-- An unsigned 8-bit value (00_scope.md R10). -/
abbrev Byte := BitVec 8

/-- A 32-bit command word, response or diagnostic counter (R52, R51, R22). -/
abbrev Word := BitVec 32

/-- A 28-bit number of milliseconds (R52, R87). -/
abbrev Millis := BitVec 28

end Sys2Proof
end

