-- ==== Sys2Proof/Config.lean ====
section
/-! DEFINITION. The parameters of 00_scope.md R7 and R8: the fixed sizes and bytes, the record of implementation
parameters, and the constants with no body that stand for every value the spec leaves OPEN or to ENV. -/

namespace Sys2Proof

/-- `WIDTH`: text bytes per frame and display columns per line (R7). -/
@[simp] abbrev width : Nat := 16
/-- `LINE_CAP`: capacity of one line store in bytes (R7, D4). -/
@[simp] abbrev lineCap : Nat := 17
/-- `FRAME_OUT_LEN` (R7). -/
@[simp] abbrev frameOutLen : Nat := 22
/-- `FRAME_IN_LEN` (R7). -/
@[simp] abbrev frameInLen : Nat := 6
/-- `RX_EXTRA_MAX`: most bytes read after the first in one collection (R7, D13). -/
@[simp] abbrev rxExtraMax : Nat := 16
/-- `RX_TOTAL_MAX = 1 + RX_EXTRA_MAX` (R7). -/
@[simp] abbrev rxTotalMax : Nat := 17

/-- The outbound header (R8, R45). -/
abbrev headerOut : List Byte := [0xAA, 0x55, 0x1E, 0x12]
/-- The inbound header (R8, R48). -/
abbrev headerIn : List Byte := [0xAA, 0x55, 0x16]
/-- The pad byte (R8, R70). -/
abbrev spaceByte : Byte := 0x20
/-- The terminator (R8, R70). -/
abbrev nulByte : Byte := 0x00

/-- `SET_AT_TAIL` (R7, D6): what SET_LINE_AT does after the copied text. -/
inductive SetAtTail where
  | keep
  | zeroFill
deriving DecidableEq, Repr, Inhabited

/-- `SEQ_MODE` (R7, D28): the fixed cycle (the hardware), or a test script. -/
inductive SeqMode where
  | auto
  | script
deriving DecidableEq, Repr, Inhabited

/-- The implementation parameters of R7 that are not fixed sizes. A state carries them as plain data, so a
statement about every state is a statement about every admitted value (log 1). -/
structure Params where
  /-- `TX_POLL_MAX`, an integer of at least 1 (D11). -/
  txPollMax   : Nat
  /-- `T_SEND_WAIT` in milliseconds (D19). -/
  tSendWait   : Millis
  /-- `T_RECV_WAIT` in milliseconds (D19). -/
  tRecvWait   : Millis
  /-- `BAUD_RATE` in bits per second (D20). -/
  baudRate    : Nat
  /-- `SEQ_PRIORITY`; no rule reads it (D21). -/
  seqPriority : Nat
  /-- `SET_AT_TAIL` (D6). -/
  setAtTail   : SetAtTail
  /-- `HAS_DIAG` (D22). -/
  hasDiag     : Bool
  /-- `SEQ_MODE` (D28). -/
  seqMode     : SeqMode
deriving DecidableEq, Repr

/-- The values R7 admits: `TX_POLL_MAX ≥ 1` and `0 < T_RECV_WAIT < T_SEND_WAIT` (R93). -/
abbrev Params.admitted (p : Params) : Prop :=
  1 ≤ p.txPollMax ∧ 0 < p.tRecvWait.toNat ∧ p.tRecvWait.toNat < p.tSendWait.toNat

/-- OPEN (D11): how far `TX_POLL_MAX` exceeds its least value 1. No value is given. -/
opaque Config.txPollMaxAboveOne : Nat
/-- OPEN (D19): from which `T_RECV_WAIT` is taken. No value is given. -/
opaque Config.recvWaitChoice : Nat
/-- OPEN (D19): from which the excess of `T_SEND_WAIT` over `T_RECV_WAIT` is taken. No value is given. -/
opaque Config.sendWaitChoice : Nat
/-- OPEN (D20): `BAUD_RATE`. No value is given. -/
opaque Config.baudRate : Nat
/-- OPEN (D21): `SEQ_PRIORITY`. No value is given. -/
opaque Config.seqPriority : Nat
/-- OPEN (D6): `SET_AT_TAIL`. No value is given. -/
opaque Config.setAtTail : SetAtTail
/-- FREE VALUE (60_exceptions.md R103): ENV's answer to the k-th `TxReady` call, where no answer was supplied
as an input. Either value on each call, with no law (log 5). -/
opaque Config.txReadyDraw : Nat → Bool
/-- FREE VALUE (10_state.md R28): what `RXQ` holds at power-on, "whatever ENV supplies" (log 6). -/
opaque Config.rxqAtPowerOn : List Byte

/-- `T_RECV_WAIT` of this machine: any value from 1 to 2^28 − 2, so that a larger `T_SEND_WAIT` still fits WAIT's
28 bits (log 16). -/
def Config.tRecvWait : Nat := Config.recvWaitChoice % (2 ^ 28 - 2) + 1

/-- `T_SEND_WAIT` of this machine: any value above `T_RECV_WAIT` that fits 28 bits (log 16). -/
def Config.tSendWait : Nat :=
  Config.tRecvWait + Config.sendWaitChoice % (2 ^ 28 - 1 - Config.tRecvWait) + 1

/-- The parameters at power-on: decided ones at the value the spec decides (`HAS_DIAG = false`, `SEQ_MODE = AUTO`),
OPEN ones at constants with no body (log 1). -/
def Params.reset : Params where
  txPollMax   := Config.txPollMaxAboveOne + 1
  tSendWait   := BitVec.ofNat 28 Config.tSendWait
  tRecvWait   := BitVec.ofNat 28 Config.tRecvWait
  baudRate    := Config.baudRate
  seqPriority := Config.seqPriority
  setAtTail   := Config.setAtTail
  hasDiag     := false
  seqMode     := .auto

end Sys2Proof
end

