-- ==== Sys2Proof/Syntax.lean ====
section
/-! DEFINITION. The instructions: the ten commands of 30_encoding.md R56 and the two wire frames of R45 and R48,
one constructor per row of spec/opcode_table.json; the port each belongs to (R51); the pseudo-commands (R59). -/

namespace Sys2Proof

/-- One constructor per row of the opcode table. A command's text operand T is any finite byte sequence (R55). -/
inductive Instr where
  /-- INIT (R62): `port`, 8 bits. -/
  | init (port : Byte)
  /-- SET_LINE (R63): `line`, 8 bits unsigned, and the text operand. -/
  | setLine (line : Byte) (text : List Byte)
  /-- SET_LINE_AT (R64): `line`, `col` (8 bits, two's complement), and the text operand. -/
  | setLineAt (line : Byte) (col : BitVec 8) (text : List Byte)
  /-- CLEAR_LINE (R65). -/
  | clearLine (line : Byte)
  /-- SET_BACKLIGHT (R66): 1 bit. -/
  | setBacklight (on : Bool)
  /-- GET_BUTTONS (R67). -/
  | getButtons
  /-- ENCODE_SEND (R73). -/
  | encodeSend (line : Byte)
  /-- TRY_RECEIVE (R78). -/
  | tryReceive
  /-- WAIT (R87): 28 bits unsigned. -/
  | wait (ms : Millis)
  /-- DIAG_READ (R68): 3 bits. -/
  | diagRead (idx : BitVec 3)
  /-- FRAME_OUT (R45, R46): the two fields of the selector and the 16 text bytes; the checksum follows from them. -/
  | frameOut (line : BitVec 1) (backlight : BitVec 1) (text : List Byte)
  /-- FRAME_IN (R48): the unchecked byte 3, the buttons byte and the checksum complement. -/
  | frameIn (unchecked buttons complement : Byte)
deriving DecidableEq, Repr

/-- Where an instruction enters the block: the two command ports (R51) and the two byte streams (20_memory.md R30). -/
inductive Port where
  | host
  | sequencer
  | wireOut
  | wireIn
deriving DecidableEq, Repr

/-- The port column of R56 and of the opcode table. -/
def Instr.port : Instr → Port
  | .init _ => .host
  | .setLine _ _ => .host
  | .setLineAt _ _ _ => .host
  | .clearLine _ => .host
  | .setBacklight _ => .host
  | .getButtons => .host
  | .encodeSend _ => .sequencer
  | .tryReceive => .sequencer
  | .wait _ => .sequencer
  | .diagRead _ => .host
  | .frameOut _ _ _ => .wireOut
  | .frameIn _ _ _ => .wireIn

/-- What is delivered on a command port: one 32-bit word and, with it, a text operand (R52, R55). -/
structure Packet where
  word : Word
  text : List Byte
deriving DecidableEq, Repr

/-- An instruction in its encoded form: a command, or the bytes of a frame in wire order (R32). -/
inductive Encoded where
  | command (p : Packet)
  | wireOut (bytes : List Byte)
  | wireIn (bytes : List Byte)
deriving DecidableEq, Repr

/-- The pseudo-commands of R59. -/
inductive Pseudo where
  | backlightOn
  | backlightOff
  | pollLine (line : Byte)
  | pollCycle
deriving DecidableEq, Repr

end Sys2Proof
end

