-- ==== Sys2Proof/WellFormed.lean ====
section
/-! DEFINITION. Well-formed instructions: what the encodings of 30_encoding.md can carry. Every operand but one has
the exact width of its field; the text of an outbound frame is exactly 16 bytes (R45). -/

namespace Sys2Proof

/-- The one check the types leave open: an outbound frame carries exactly `WIDTH` text bytes (R45). -/
def Instr.wellFormed : Instr → Bool
  | .init _ => true
  | .setLine _ _ => true
  | .setLineAt _ _ _ => true
  | .clearLine _ => true
  | .setBacklight _ => true
  | .getButtons => true
  | .encodeSend _ => true
  | .tryReceive => true
  | .wait _ => true
  | .diagRead _ => true
  | .frameOut _ _ text => text.length == width
  | .frameIn _ _ _ => true

end Sys2Proof
end

