-- ==== Sys2Proof/Decode.lean ====
section
/-! DEFINITION. Decoding of commands and of the two wire frames (30_encoding.md R45 to R57), total and rejecting by
name; after it the encoder, written from the same tables; then the host's view of a word as the opcode table numbers it. -/

namespace Sys2Proof

/-- Why something is no instruction. -/
inductive Reject where
  /-- Opcode 0x0 or 0xB to 0xF (R57). -/
  | reservedOpcode
  /-- A non-zero bit in a field the opcode does not use (R52, R57). -/
  | unusedFieldSet
  /-- A wire frame of the wrong length (R45, R48). -/
  | frameLength
  /-- A wire frame whose header differs (R45, R48). -/
  | frameHeader
  /-- An outbound selector with a bit of 7:2 set (R46). -/
  | frameSelector
  /-- An outbound frame whose last byte is not its checksum (R45, R71). -/
  | frameChecksum
deriving DecidableEq, Repr

/-- `sum8(S)`: the 8-bit sum of a byte sequence (00_scope.md R10, R11). -/
def sum8 : List Byte → Byte
  | [] => 0
  | b :: bs => b + sum8 bs

/-- `Checksum(sel, text) = (0x100 − sum8([sel] ++ text)) mod 256` (41_frame_encoder.md R71). -/
def checksum (sel : Byte) (text : List Byte) : Byte := 0 - sum8 (sel :: text)

/-- The selector byte: bit 0 the line, bit 1 the backlight, bits 7:2 zero (R46). -/
def selectorByte (line backlight : BitVec 1) : Byte := (0#6 ++ backlight ++ line : BitVec 8)

/-- The 22 bytes of an outbound frame: header, selector, text, checksum (R45). -/
def frameOutBytes (sel : Byte) (text : List Byte) : List Byte :=
  headerOut ++ [sel] ++ text ++ [checksum sel text]

/-- The 6 bytes of an inbound frame (R48). -/
def frameInBytes (unchecked buttons complement : Byte) : List Byte :=
  headerIn ++ [unchecked, buttons, complement]

/-- The test of R56: `word & mask = match`; otherwise some unused field is not zero. -/
def checkRow (w mask pattern : Word) (i : Instr) : Except Reject Instr :=
  if w &&& mask = pattern then .ok i else .error .unusedFieldSet

/-- The opcode map of R56, with the operands assembled as R53 says. -/
def decodeCommand (p : Packet) : Except Reject Instr :=
  let w := p.word
  match (w.extractLsb' 28 4).toNat with
  | 0x1 => checkRow w 0xFFFFFF00 0x10000000 (.init (w.extractLsb' 0 8))
  | 0x2 => checkRow w 0xFF00FFFF 0x20000000 (.setLine (w.extractLsb' 16 8) p.text)
  | 0x3 => checkRow w 0xFF0000FF 0x30000000 (.setLineAt (w.extractLsb' 16 8) (w.extractLsb' 8 8) p.text)
  | 0x4 => checkRow w 0xFF00FFFF 0x40000000 (.clearLine (w.extractLsb' 16 8))
  | 0x5 => checkRow w 0xFFFFFFFE 0x50000000 (.setBacklight (w.getLsbD 0))
  | 0x6 => checkRow w 0xFFFFFFFF 0x60000000 .getButtons
  | 0x7 => checkRow w 0xFF00FFFF 0x70000000 (.encodeSend (w.extractLsb' 16 8))
  | 0x8 => checkRow w 0xFFFFFFFF 0x80000000 .tryReceive
  | 0x9 => checkRow w 0xF0000000 0x90000000 (.wait (w.extractLsb' 0 28))
  | 0xA => checkRow w 0xFFFFFFF8 0xA0000000 (.diagRead (w.extractLsb' 0 3))
  | _ => .error .reservedOpcode

/-- An outbound frame read from the wire (R45): 22 bytes, the header, a selector with bits 7:2 zero (R46), the
checksum of its own selector and text (R71). -/
def decodeWireOut (bytes : List Byte) : Except Reject Instr :=
  let sel := bytes.getD 4 0
  let text := (bytes.drop 5).take width
  if bytes.length ≠ frameOutLen then .error .frameLength
  else if bytes.take 4 ≠ headerOut then .error .frameHeader
  else if sel.extractLsb' 2 6 ≠ 0 then .error .frameSelector
  else if bytes.getD 21 0 ≠ checksum sel text then .error .frameChecksum
  else .ok (.frameOut (sel.extractLsb' 0 1) (sel.extractLsb' 1 1) text)

/-- An inbound frame on the wire by the match and mask of R49: 6 bytes and the header. Whether the block accepts
it is the receive assembler's test (42_receive_assembler.md R81). -/
def decodeWireIn (bytes : List Byte) : Except Reject Instr :=
  if bytes.length ≠ frameInLen then .error .frameLength
  else if bytes.take 3 ≠ headerIn then .error .frameHeader
  else .ok (.frameIn (bytes.getD 3 0) (bytes.getD 4 0) (bytes.getD 5 0))

/-- The decoder: total on every encoded form. -/
def decode : Encoded → Except Reject Instr
  | .command p => decodeCommand p
  | .wireOut bytes => decodeWireOut bytes
  | .wireIn bytes => decodeWireIn bytes

/-- The command word of R52 and R56, field by field from bit 31 down. A frame has no command word. -/
def encodeWord : Instr → Word
  | .init port => 0x1#4 ++ 0#4 ++ 0#8 ++ 0#8 ++ port
  | .setLine line _ => 0x2#4 ++ 0#4 ++ line ++ 0#8 ++ 0#8
  | .setLineAt line col _ => 0x3#4 ++ 0#4 ++ line ++ col ++ 0#8
  | .clearLine line => 0x4#4 ++ 0#4 ++ line ++ 0#8 ++ 0#8
  | .setBacklight on => 0x5#4 ++ 0#4 ++ 0#8 ++ 0#8 ++ 0#7 ++ BitVec.ofBool on
  | .getButtons => 0x6#4 ++ 0#28
  | .encodeSend line => 0x7#4 ++ 0#4 ++ line ++ 0#8 ++ 0#8
  | .tryReceive => 0x8#4 ++ 0#28
  | .wait ms => 0x9#4 ++ ms
  | .diagRead idx => 0xA#4 ++ 0#4 ++ 0#8 ++ 0#8 ++ 0#5 ++ idx
  | .frameOut _ _ _ => 0
  | .frameIn _ _ _ => 0

/-- The text operand a command carries: SET_LINE and SET_LINE_AT only (R52, R55). -/
def encodeText : Instr → List Byte
  | .setLine _ text => text
  | .setLineAt _ _ text => text
  | .init _ => []
  | .clearLine _ => []
  | .setBacklight _ => []
  | .getButtons => []
  | .encodeSend _ => []
  | .tryReceive => []
  | .wait _ => []
  | .diagRead _ => []
  | .frameOut _ _ _ => []
  | .frameIn _ _ _ => []

/-- A command as it is delivered on its port. -/
def encodePacket (i : Instr) : Packet := ⟨encodeWord i, encodeText i⟩

/-- The encoder: the words or bytes of an instruction, at the port it belongs to. -/
def encode (i : Instr) : Encoded :=
  match i with
  | .init _ => .command (encodePacket i)
  | .setLine _ _ => .command (encodePacket i)
  | .setLineAt _ _ _ => .command (encodePacket i)
  | .clearLine _ => .command (encodePacket i)
  | .setBacklight _ => .command (encodePacket i)
  | .getButtons => .command (encodePacket i)
  | .encodeSend _ => .command (encodePacket i)
  | .tryReceive => .command (encodePacket i)
  | .wait _ => .command (encodePacket i)
  | .diagRead _ => .command (encodePacket i)
  | .frameOut line backlight text => .wireOut (frameOutBytes (selectorByte line backlight) text)
  | .frameIn x b c => .wireIn (frameInBytes x b c)

/-- Byte `k` of an `n`-byte frame that is numbered as one number with byte 0 most significant, as the opcode
table numbers its two frame rows (R49). -/
def byteMsbFirst (n w k : Nat) : Byte := BitVec.ofNat 8 (w / 2 ^ (8 * (n - 1 - k)))

/-- Byte `k` of a frame numbered with byte 0 least significant. -/
def byteLsbFirst (w k : Nat) : Byte := BitVec.ofNat 8 (w / 2 ^ (8 * k))

/-- The bytes of a frame given as a number: the table's own order if the frame's header reads right that way,
else byte 0 least significant (log 17). -/
def tableBytes (header : List Byte) (n w : Nat) : List Byte :=
  let msb := (List.range n).map (byteMsbFirst n w)
  if msb.take header.length = header then msb else (List.range n).map (byteLsbFirst w)

/-- A table row's word in its encoded form: 22 bytes are an outbound frame, 6 bytes an inbound one, anything else
a command word with an empty text operand. -/
def tableEncoded (nbits w : Nat) : Encoded :=
  if nbits = 176 then .wireOut (tableBytes headerOut frameOutLen w)
  else if nbits = 48 then .wireIn (tableBytes headerIn frameInLen w)
  else .command ⟨BitVec.ofNat 32 w, []⟩

/-- The instruction the decoder reads from a word numbered as spec/opcode_table.json numbers it. -/
def decodeTableWord (nbits w : Nat) : Option Instr :=
  match decode (tableEncoded nbits w) with
  | .ok i => some i
  | .error _ => none

end Sys2Proof
end

