-- ==== Sys2Proof/Machine/State.lean ====
section
/-! DEFINITION. The machine's state as plain data: every register of 10_state.md R29, the environment's streams of
R28, the parameters of 00_scope.md R7, and the model's own lists of inputs still to come. Reset, faults, refusals. -/

namespace Sys2Proof.Machine

/-- Line storage as a list of (address, byte) pairs: addresses strictly rising, no entry equal to 0x00, which is
what an unlisted address reads as (the power-on content, R20). The address of `LINE[l][c]` is 17 l + c (log 3). -/
abbrev Memory := List Host.Cell

/-- `TX_STATE` (R25). -/
inductive TxState where
  | idle
  | poll
  | send
deriving DecidableEq, Repr

/-- `RX_STATE` (R26). -/
inductive RxState where
  | idle
  | first
  | collect
  | check
  | drain
deriving DecidableEq, Repr

/-- `SEQ_PHASE` (R27). -/
inductive SeqPhase where
  | stopped
  | issue
  | busy
deriving DecidableEq, Repr

/-- `SEQ_STEP`, the enumerated step counter of the polling cycle (R14, R27). -/
inductive SeqStep where
  | step1
  | step2
  | step3
  | step4
  | step5
  | step6
  | step7
  | step8
deriving DecidableEq, Repr

/-- One move of the interleaving (20_memory.md R37): what an agent does next. -/
inductive Input where
  /-- HOST presents a command on the host port (00_scope.md R9). -/
  | host (p : Packet)
  /-- A command is presented on the sequencer port from outside SEQ (95_test_vectors.md V-S10); it is SEQ that issues it
  (20_memory.md R40, log 8). -/
  | sequencer (p : Packet)
  /-- SEQ takes its next micro-step (R89). -/
  | seqTurn
  /-- ENV appends bytes to `RXQ` (60_exceptions.md R103). -/
  | wireIn (bytes : List Byte)
  /-- A whole frame is seen to start on the outgoing wire (30_encoding.md R45, log 9). -/
  | wireOut (bytes : List Byte)
deriving DecidableEq, Repr, Inhabited

/-- How the interleaving goes on once the moves listed are used up. It never ends (70_reset_and_hazards.md R117,
R122), so what comes then is no finite list (log 4). -/
inductive Schedule where
  /-- Any agent may move next: each move is a free value. -/
  | free
  /-- These moves again and again for ever; with none, SEQ's turn for ever. -/
  | repeating (moves : List Input)
deriving DecidableEq, Repr

end Sys2Proof.Machine

namespace Sys2Proof

/-- FREE VALUE (20_memory.md R37): the k-th move drawn where no move is listed and the schedule is free. No move is
given, so ENV may append for ever (70_reset_and_hazards.md R117), or stop (log 4). -/
opaque Config.moveDraw : Nat → Machine.Input

end Sys2Proof

namespace Sys2Proof.Machine

/-- The machine's state. -/
@[ext]
structure State where
  /-- The implementation parameters; no step changes them (00_scope.md R7, log 1). -/
  params       : Params
  /-- `INIT_DONE` (R16). -/
  initDone     : Bool
  /-- `PORT` (R17). -/
  port         : Byte
  /-- `BACKLIGHT` (R18). -/
  backlight    : Bool
  /-- `BUTTONS` (R19). -/
  buttons      : Byte
  /-- `LINE[0]` and `LINE[1]` (R20). -/
  mem          : Memory
  /-- `DIAG[0..7]` (R22). -/
  diag         : Vector Word 8
  /-- `TXBUF` (R23). -/
  txBuf        : Vector Byte 22
  /-- `TXIDX` (R23). -/
  txIdx        : Nat
  /-- `TXPOLL` (R23). -/
  txPoll       : Nat
  /-- `TX_STATE` (R25). -/
  txState      : TxState
  /-- `RXBUF` (R24). -/
  rxBuf        : Vector Byte 17
  /-- `RXCNT` (R24). -/
  rxCnt        : Nat
  /-- `RX_STATE` (R26). -/
  rxState      : RxState
  /-- `SEQ_STEP` (R27). -/
  seqStep      : SeqStep
  /-- `SEQ_PHASE` (R27). -/
  seqPhase     : SeqPhase
  /-- `WAIT_MS` (R27). -/
  waitMs       : Millis
  /-- `RXQ`, the transport's receive FIFO, head first (R28). -/
  rxq          : List Byte
  /-- `TXLOG`, the bytes passed to `TxSend`, in call order (R28). -/
  txLog        : List Byte
  /-- ENV's coming answers to `TxReady`; when none is left the free value answers (R103, log 5). -/
  readyAnswers : List Bool
  /-- How many times `TxReady` was called; the free answer is taken at this count (log 5). -/
  readyCalls   : Nat
  /-- The `ConfigureBaud(port, rate)` calls made, in order (R103, log 14). -/
  baudCalls    : List (Byte × Nat)
  /-- The values placed on the host port's response channel `resp`, in order (30_encoding.md R51, log 14). -/
  resp         : List Word
  /-- What is left of the test script of `SEQ_MODE = SCRIPT` (R94). -/
  script       : List Packet
  /-- The moves still to come, in order (R37, log 4). -/
  inputs       : List Input
  /-- How the moves go on after those listed (R37, log 4). -/
  later        : Schedule
  /-- How many free moves were drawn; the next one is taken at this count (log 4). -/
  drawn        : Nat
deriving DecidableEq, Repr

/-- No fault exists: "The block raises no exception, takes no trap, and has no fatal error state" (60_exceptions.md
R95), and spec/93 treats no behaviour as a fault. Nobody raises one. -/
inductive Fault where
deriving DecidableEq, Repr

/-- Why the model gives a command no meaning (60_exceptions.md R97). Each is safe: nothing is proved of a run that
meets one. -/
inductive Refusal where
  /-- An instruction without a meaning yet; raised by `exec` only (no arm is left that raises it). Safe. -/
  | notModelled (mnemonic : String)
  /-- `Reserved` (R97): a word that matches no row of R56, or DIAG_READ with `HAS_DIAG = false`; raised where a
  command is delivered on a port, and by DIAG_READ. Safe. -/
  | reserved
  /-- `WrongPort` (R97): raised where a command is delivered on a port. Safe. -/
  | wrongPort
  /-- `NotInitialised` (R97): raised by every command but INIT while `INIT_DONE = 0`. Safe. -/
  | notInitialised
  /-- `DoubleInit` (R97): raised by INIT while `INIT_DONE = 1`. Safe. -/
  | doubleInit
  /-- Bytes offered as an outbound frame that are none (R45): the block never sends them (R76). Raised where a wire
  frame is taken (log 23). Safe. -/
  | notAFrame
deriving DecidableEq, Repr

/-- The state at power-on (70_reset_and_hazards.md R109): `INIT_DONE = 0`, the lines all 0x00, the three machines
idle, `TXLOG` empty, `RXQ` whatever ENV supplies. Every register that "holds no value" there has the value log 2
names: zero, and step 1 for `SEQ_STEP`, whose range has no zero. -/
def State.reset : State where
  params       := Params.reset
  initDone     := false
  port         := 0
  backlight    := false
  buttons      := 0
  mem          := []
  diag         := Vector.replicate 8 0
  txBuf        := Vector.replicate 22 0
  txIdx        := 0
  txPoll       := 0
  txState      := .idle
  rxBuf        := Vector.replicate 17 0
  rxCnt        := 0
  rxState      := .idle
  seqStep      := .step1
  seqPhase     := .stopped
  waitMs       := 0
  rxq          := Config.rxqAtPowerOn
  txLog        := []
  readyAnswers := []
  readyCalls   := 0
  baudCalls    := []
  resp         := []
  script       := []
  inputs       := []
  later        := .free
  drawn        := 0

end Sys2Proof.Machine
end

