-- ==== Sys2Proof/Machine/Ops.lean ====
section
/-! DEFINITION. The named operations over line storage, the streams and the transport primitives of 60_exceptions.md
R103. The block takes no exception and returns from none (R95, R100: no trap entry, no state saved, no vector), so
there is no entry operation here: every error of R96 is a next state, and a refusal (R97) ends the run. -/

namespace Sys2Proof.Machine

/-- What a meaning answers. -/
abbrev Result := Host.Outcome State Fault Refusal

/-- One byte of line storage; an address not listed reads 0x00 (10_state.md R20). -/
def Memory.readByte : Memory → Nat → Byte
  | [], _ => 0
  | (k, v) :: rest, a => if k = a then v else Memory.readByte rest a

/-- Put a non-zero byte, or none for 0x00, in front of a list. -/
def Memory.consByte (a : Nat) (v : Byte) (rest : Memory) : Memory :=
  if v = 0 then rest else (a, v) :: rest

/-- Write one byte of line storage, keeping the list in its one form. -/
def Memory.writeByte : Memory → Nat → Byte → Memory
  | [], a, v => Memory.consByte a v []
  | (k, u) :: rest, a, v =>
    if a < k then Memory.consByte a v ((k, u) :: rest)
    else if a = k then Memory.consByte a v rest
    else (k, u) :: Memory.writeByte rest a v

/-- Write consecutive bytes from an address up. -/
def Memory.writeRange : Memory → Nat → List Byte → Memory
  | m, _, [] => m
  | m, a, b :: bs => Memory.writeRange (Memory.writeByte m a b) (a + 1) bs

/-- How many bytes line storage has: two lines of `LINE_CAP` bytes (20_memory.md R30). -/
@[simp] abbrev storeSize : Nat := 34

/-- The canonical form: addresses inside the store and strictly rising, no entry 0x00. -/
def Memory.wf : Memory → Bool
  | [] => true
  | (k, v) :: rest =>
    decide (k < storeSize) && decide (v ≠ 0) && rest.all (fun c => decide (k < c.1)) && Memory.wf rest

/-- The address of `LINE[l][c]` (20_memory.md R30, log 3). -/
def lineAddr (line : Byte) (col : Nat) : Nat := lineCap * line.toNat + col

/-- `LINE[l][c]`, that is `MemRead((l, c), 1)` (20_memory.md R30). -/
def State.lineByte (s : State) (line : Byte) (col : Nat) : Byte := s.mem.readByte (lineAddr line col)

/-- The line store `LINE[l]`: its 17 bytes, column 0 first (10_state.md R20). -/
def State.lineStore (s : State) (line : Byte) : List Byte := (List.range lineCap).map (s.lineByte line)

/-- Write consecutive columns of a line: `LINE[l][c] <- b0`, `LINE[l][c+1] <- b1`, … (20_memory.md R30). -/
def State.writeLine (s : State) (line : Byte) (col : Nat) (bytes : List Byte) : State :=
  { s with mem := s.mem.writeRange (lineAddr line col) bytes }

/-- `RxRead()`: the head of `RXQ`, removed, or `NONE` (60_exceptions.md R103, 20_memory.md R36). -/
def State.rxRead (s : State) : Option Byte × State :=
  match s.rxq with
  | [] => (none, s)
  | b :: rest => (some b, { s with rxq := rest })

/-- ENV appends bytes to the tail of `RXQ` (60_exceptions.md R103); no other state changes (R99). -/
def State.rxAppend (s : State) (bytes : List Byte) : State := { s with rxq := s.rxq ++ bytes }

/-- `TxSend(b)`: appends b to `TXLOG`; never fails, never blocks (60_exceptions.md R103). -/
def State.txSend (s : State) (b : Byte) : State := { s with txLog := s.txLog ++ [b] }

/-- What ENV answers to the next `TxReady` call: the next answer supplied as an input, else the free value
(60_exceptions.md R103, log 5). -/
def State.readyAnswer (s : State) : Bool :=
  match s.readyAnswers with
  | [] => Config.txReadyDraw s.readyCalls
  | r :: _ => r

/-- The state after a `TxReady` call: no side effect on the block (20_memory.md R36), one answer used up. -/
def State.readyCalled (s : State) : State :=
  { s with readyAnswers := s.readyAnswers.tail, readyCalls := s.readyCalls + 1 }

/-- `ConfigureBaud(PORT, rate)`: one-time setup, no result (60_exceptions.md R103). -/
def State.configureBaud (s : State) (rate : Nat) : State :=
  { s with baudCalls := s.baudCalls ++ [(s.port, rate)] }

/-- `resp <- v` (00_scope.md R10, 30_encoding.md R51). -/
def State.respond (s : State) (v : Word) : State := { s with resp := s.resp ++ [v] }

/-- Put a move back in front of those to come: what was offered is still pending. -/
def State.hold (s : State) (e : Input) : State := { s with inputs := e :: s.inputs }

/-- The next move of the interleaving, and the state with it taken: the first move listed, else the next one of the
schedule (20_memory.md R37, log 4). -/
def State.nextMove (s : State) : Input × State :=
  match s.inputs with
  | e :: rest => (e, { s with inputs := rest })
  | [] =>
    match s.later with
    | .free => (Config.moveDraw s.drawn, { s with drawn := s.drawn + 1 })
    | .repeating [] => (.seqTurn, s)
    | .repeating (e :: rest) => (e, { s with inputs := rest })

/-- `require INIT_DONE = 1`, else refuse `NotInitialised` (60_exceptions.md R97). -/
def requireInit (s : State) (k : State → Result) : Result :=
  if s.initDone then k s else .refused .notInitialised

/-- Whether a command is in progress on the sequencer port: its port accepts the next command only after the current
one completes (20_memory.md R40). -/
def State.portBusy (s : State) : Bool := decide (s.txState ≠ .idle) || decide (s.rxState ≠ .idle)

end Sys2Proof.Machine
end

