-- ==== Sys2Proof/Machine/Flags.lean ====
section
/-! DEFINITION. The block has no status flags and no command sets one (10_state.md R15). What a command or a
micro-step records on the side is a diagnostic counter, when `HAS_DIAG = true` (R22): the counters, and counting. -/

namespace Sys2Proof.Machine

/-- The eight diagnostic counters by name (10_state.md R22). -/
inductive DiagId where
  | rxOk
  | rxBadLen
  | rxBadHdr
  | rxBadSum
  | rxDrained
  | txNotReady
  | argReject
  | txFrames
deriving DecidableEq, Repr

/-- A counter's index in `DIAG` (10_state.md R22). -/
def diagIndex : DiagId → Fin 8
  | .rxOk => 0
  | .rxBadLen => 1
  | .rxBadHdr => 2
  | .rxBadSum => 3
  | .rxDrained => 4
  | .txNotReady => 5
  | .argReject => 6
  | .txFrames => 7

/-- `if HAS_DIAG: DIAG[i] <- DIAG[i] + 1`, 32 bits, wrapping (10_state.md R22). -/
def State.bump (s : State) (d : DiagId) : State :=
  if s.params.hasDiag then
    { s with diag := s.diag.set (diagIndex d) (s.diag[diagIndex d] + 1) }
  else s

/-- The silent no-op of an out-of-range argument: only `DIAG[6]` counts it (40_line_api.md R61, 60_exceptions.md
R96 classes A1 and A2). -/
def argReject (s : State) : Result := .next (s.bump .argReject)

end Sys2Proof.Machine
end

