-- ==== Sys2Proof/Machine/Receive.lean ====
section
/-! DEFINITION. The receive micro-steps of 42_receive_assembler.md: RX_FIRST (R79), RX_COLLECT (R80), the accept
predicate (R81), RX_CHECK (R82), RX_DRAIN (R83). -/

namespace Sys2Proof.Machine

/-- RX_FIRST (R79): one non-blocking read; with nothing pending TRY_RECEIVE ends. -/
def rxFirstStep (s : State) : State :=
  match s.rxRead with
  | (none, s1) => { s1 with rxState := .idle }
  | (some b, s1) => { s1 with rxBuf := s1.rxBuf.setIfInBounds 0 b, rxCnt := 1, rxState := .collect }

/-- RX_COLLECT (R80): at 17 bytes no read; otherwise one read, stopping at the first `NONE`. -/
def rxCollectStep (s : State) : State :=
  if s.rxCnt = rxTotalMax then { s with rxState := .check }
  else
    match s.rxRead with
    | (none, s1) => { s1 with rxState := .check }
    | (some b, s1) => { s1 with rxBuf := s1.rxBuf.setIfInBounds s1.rxCnt b, rxCnt := s1.rxCnt + 1 }

/-- The header test of R81 on `RXBUF[0..2]`. -/
def State.rxHeaderOk (s : State) : Bool :=
  decide (s.rxBuf[0] = 0xAA) && decide (s.rxBuf[1] = 0x55) && decide (s.rxBuf[2] = 0x16)

/-- The checksum test of R81: `(RXBUF[4] + RXBUF[5]) mod 256 = 0`. -/
def State.rxSumOk (s : State) : Bool := decide (s.rxBuf[4] + s.rxBuf[5] = 0)

/-- The accept predicate (R81). -/
def State.rxAccept (s : State) : Bool := decide (s.rxCnt = frameInLen) && s.rxHeaderOk && s.rxSumOk

/-- RX_CHECK (R82): accept and take the buttons byte, or count why not, testing length, header, checksum in that
order (60_exceptions.md R98); the drain follows either way. -/
def rxCheckStep (s : State) : State :=
  let s1 :=
    if s.rxAccept then { s with buttons := s.rxBuf[4] }.bump .rxOk
    else if s.rxCnt ≠ frameInLen then s.bump .rxBadLen
    else if !s.rxHeaderOk then s.bump .rxBadHdr
    else s.bump .rxBadSum
  { s1 with rxState := .drain }

/-- RX_DRAIN (R83): one read; a byte is discarded, `NONE` ends TRY_RECEIVE. It has no bound. -/
def rxDrainStep (s : State) : State :=
  match s.rxRead with
  | (none, s1) => { s1 with rxState := .idle }
  | (some _, s1) => s1.bump .rxDrained

end Sys2Proof.Machine
end

