-- ==== Sys2Proof/Machine/Operands.lean ====
section
/-! DEFINITION. The operand forms of 30_encoding.md R53 to R55: the unsigned line, the signed column, the text
operand and its length. The 8-bit port, the 1-bit flag, the 3-bit index and the 28-bit delay are used as they are. -/

namespace Sys2Proof.Machine

/-- `len(T)`: the index of the first 0x00 in T, or `|T|` if there is none (30_encoding.md R55). -/
def textLen : List Byte → Nat
  | [] => 0
  | b :: bs => if b = nulByte then 0 else textLen bs + 1

/-- `line > 1`, compared unsigned: the line operand names no line (R53, R54, 00_scope.md R11). -/
def lineOutOfRange (line : Byte) : Bool := decide (1 < line.toNat)

/-- `col < 0 or col ≥ WIDTH`, compared signed (R53, R54, 00_scope.md R11). -/
def colOutOfRange (col : BitVec 8) : Bool := decide (col.toInt < 0) || decide ((width : Int) ≤ col.toInt)

/-- The text SET_LINE stores: at most `LINE_CAP − 1` bytes of T, cut at its length (40_line_api.md R63). -/
def setLineText (text : List Byte) : List Byte := text.take (min (textLen text) (lineCap - 1))

/-- The 17 bytes SET_LINE writes: its text, then 0x00 up to column 16 (40_line_api.md R63). -/
def setLineBytes (text : List Byte) : List Byte :=
  setLineText text ++ List.replicate (lineCap - (setLineText text).length) nulByte

/-- The text SET_LINE_AT stores from a column: at most `WIDTH − col` bytes of T, cut at its length
(40_line_api.md R64). -/
def setLineAtText (col : Nat) (text : List Byte) : List Byte := text.take (min (textLen text) (width - col))

/-- The bytes SET_LINE_AT writes from a column on: its text and, with `SET_AT_TAIL = ZERO_FILL`, 0x00 up to column
15 (40_line_api.md R64). -/
def setLineAtBytes (tail : SetAtTail) (col : Nat) (text : List Byte) : List Byte :=
  match tail with
  | .keep => setLineAtText col text
  | .zeroFill =>
    setLineAtText col text ++ List.replicate (width - col - (setLineAtText col text).length) nulByte

end Sys2Proof.Machine
end

