-- ==== Sys2Proof/Machine/Frame.lean ====
section
/-! DEFINITION. The outbound frame as the pure functions of 41_frame_encoder.md: R70 the text field, R71 the checksum
(`checksum`, beside the decoder), R72 the frame. -/

namespace Sys2Proof.Machine

/-- One text byte of a frame: column k of the line store before its first 0x00, else the pad byte (R70). -/
def textByte (store : List Byte) (k : Nat) : Byte :=
  if k < textLen (store.take width) then store.getD k nulByte else spaceByte

/-- `Text16(L)` (R70). -/
def text16 (store : List Byte) : List Byte := (List.range width).map (textByte store)

/-- The selector of a frame: `line + (BACKLIGHT ? 2 : 0)`, an 8-bit value (R72, 30_encoding.md R46). -/
def frameSelector (line : Byte) (backlight : Bool) : Byte := line + (if backlight then 2 else 0)

/-- `Frame(l, bl, L)`, the 22 bytes (R72). -/
def frame (line : Byte) (backlight : Bool) (store : List Byte) : List Byte :=
  frameOutBytes (frameSelector line backlight) (text16 store)

/-- A byte sequence as the contents of `TXBUF`. -/
def toTxBuf (bytes : List Byte) : Vector Byte 22 := Vector.ofFn fun k => bytes.getD k.val 0

end Sys2Proof.Machine
end

