-- ==== Sys2Proof/Machine/Transmit.lean ====
section
/-! DEFINITION. The transmit micro-steps of 41_frame_encoder.md: the snapshot of ENCODE_SEND (R73), TX_POLL (R74),
TX_SEND (R75). -/

namespace Sys2Proof.Machine

/-- The snapshot of ENCODE_SEND with a valid line: `BACKLIGHT` and the line store are read in this one micro-step and
the whole frame is built (R73, 20_memory.md R39). -/
def snapshot (line : Byte) (s : State) : State :=
  { s with
    txBuf := toTxBuf (frame line s.backlight (s.lineStore line))
    txIdx := 0
    txPoll := 0
    txState := .poll }

/-- TX_POLL (R74): one transmit-ready poll; on a true answer, or at the `TX_POLL_MAX`-th poll, the byte is sent next. -/
def txPollStep (s : State) : State :=
  let r := s.readyAnswer
  let s1 := s.readyCalled
  let s2 := { s1 with txPoll := s1.txPoll + 1 }
  if r then { s2 with txState := .send }
  else if s2.txPoll = s2.params.txPollMax then { s2.bump .txNotReady with txState := .send }
  else s2

/-- TX_SEND (R75): one byte is sent; after the 22nd ENCODE_SEND ends. -/
def txSendStep (s : State) : State :=
  let s1 := s.txSend ((s.txBuf[s.txIdx]?).getD 0)
  let s2 := { s1 with txIdx := s1.txIdx + 1, txPoll := 0 }
  if s2.txIdx = frameOutLen then { s2 with txState := .idle }.bump .txFrames
  else { s2 with txState := .poll }

end Sys2Proof.Machine
end

