-- ==== Sys2Proof/Machine/Ports.lean ====
section
/-! DEFINITION. The sequencer port: the micro-step of the command in progress, and when the port takes the next
command (20_memory.md R40). -/

namespace Sys2Proof.Machine

/-- The next micro-step of the command in progress on the sequencer port, chosen by `TX_STATE` and `RX_STATE`
(41_frame_encoder.md R74, R75; 42_receive_assembler.md R79 to R83); none when both are idle. -/
def microStep (s : State) : State :=
  match s.txState with
  | .poll => txPollStep s
  | .send => txSendStep s
  | .idle =>
    match s.rxState with
    | .idle => s
    | .first => rxFirstStep s
    | .collect => rxCollectStep s
    | .check => rxCheckStep s
    | .drain => rxDrainStep s

/-- Take a command that needs the transmitter and receiver idle. While another is in progress the port "accepts its next
command only after the current one completes" (20_memory.md R40): the command in progress takes its next micro-step
and the one offered stays pending (log 8). -/
def whenPortFree (e : Input) (s : State) (k : State → Result) : Result :=
  if s.portBusy then .next (microStep (s.hold e)) else k s

/-- A command of the sequencer port: refused before INIT (60_exceptions.md R97), then taken when the port is free. -/
def onSequencerPort (i : Instr) (s : State) (k : State → Result) : Result :=
  requireInit s fun s => whenPortFree (.sequencer (encodePacket i)) s k

end Sys2Proof.Machine
end

