-- ==== Sys2Proof/Machine/Encoder.lean ====
section
/-! DEFINITION. ENCODE_SEND (41_frame_encoder.md R73). Its later micro-steps are in Machine/Transmit.lean. -/

namespace Sys2Proof.Machine

/-- ENCODE_SEND (R73): with a line out of range nothing is sent; otherwise the snapshot, and the command stays in
progress until its 22nd byte is sent (R75). -/
def execEncodeSend (line : Byte) (s : State) : Result :=
  onSequencerPort (.encodeSend line) s fun s =>
    if lineOutOfRange line then argReject s else .next (snapshot line s)

end Sys2Proof.Machine
end

