-- ==== Sys2Proof/Machine/LineApi.lean ====
section
/-! DEFINITION. The host-port commands of 40_line_api.md. Each is one atomic micro-step and writes no flag (R61). -/

namespace Sys2Proof.Machine

/-- INIT (R62). It does not write the lines. -/
def execInit (port : Byte) (s : State) : Result :=
  if s.initDone then .refused .doubleInit
  else
    let s1 := { s with port := port }.configureBaud s.params.baudRate
    let s2 := { s1 with backlight := false, buttons := 0 }
    let s3 := if s2.params.hasDiag then { s2 with diag := Vector.replicate 8 0 } else s2
    let s4 := { s3 with initDone := true, seqPhase := .issue }
    .next (match s4.params.seqMode with
      | .auto => { s4 with seqStep := .step1 }
      | .script => s4)

/-- SET_LINE (R63). -/
def execSetLine (line : Byte) (text : List Byte) (s : State) : Result :=
  requireInit s fun s =>
    if lineOutOfRange line then argReject s
    else .next (s.writeLine line 0 (setLineBytes text))

/-- SET_LINE_AT (R64). A bad line and a bad column count once (60_exceptions.md R98). -/
def execSetLineAt (line : Byte) (col : BitVec 8) (text : List Byte) (s : State) : Result :=
  requireInit s fun s =>
    if lineOutOfRange line || colOutOfRange col then argReject s
    else .next (s.writeLine line col.toNat (setLineAtBytes s.params.setAtTail col.toNat text))

/-- CLEAR_LINE (R65): 16 spaces, and 0x00 in column 16. -/
def execClearLine (line : Byte) (s : State) : Result :=
  requireInit s fun s =>
    if lineOutOfRange line then argReject s
    else .next (s.writeLine line 0 (List.replicate width spaceByte ++ [nulByte]))

/-- SET_BACKLIGHT (R66). -/
def execSetBacklight (on : Bool) (s : State) : Result :=
  requireInit s fun s => .next { s with backlight := on }

/-- GET_BUTTONS (R67): `resp <- zext_32(BUTTONS)`. -/
def execGetButtons (s : State) : Result :=
  requireInit s fun s => .next (s.respond (s.buttons.zeroExtend 32))

/-- DIAG_READ (R68): refused as `Reserved` where the counters do not exist. -/
def execDiagRead (idx : BitVec 3) (s : State) : Result :=
  if s.params.hasDiag then requireInit s fun s => .next (s.respond s.diag[idx.toFin])
  else .refused .reserved

end Sys2Proof.Machine
end

