-- ==== Sys2Proof/Machine/Receiver.lean ====
section
/-! DEFINITION. TRY_RECEIVE (42_receive_assembler.md R78). Its later micro-steps are in Machine/Receive.lean. -/

namespace Sys2Proof.Machine

/-- TRY_RECEIVE (R78): `RX_STATE <- RX_FIRST`; the command stays in progress until `RX_STATE` is idle again. -/
def execTryReceive (s : State) : Result :=
  onSequencerPort .tryReceive s fun s => .next { s with rxState := .first }

end Sys2Proof.Machine
end

