-- ==== Sys2Proof/Machine/Sequencer.lean ====
section
/-! DEFINITION. WAIT and the polling cycle (43_polling_sequencer.md R87 to R91), and the pseudo-commands that name it
(30_encoding.md R59). -/

namespace Sys2Proof.Machine

/-- WAIT (R87): `WAIT_MS <- ms`; in the untimed model it has no duration and completes in this micro-step (log 15). -/
def execWait (ms : Millis) (s : State) : Result :=
  onSequencerPort (.wait ms) s fun s => .next { s with waitMs := ms }

/-- The number of a step, 1 to 8 (10_state.md R27). -/
def stepNumber : SeqStep → Nat
  | .step1 => 1
  | .step2 => 2
  | .step3 => 3
  | .step4 => 4
  | .step5 => 5
  | .step6 => 6
  | .step7 => 7
  | .step8 => 8

/-- `(SEQ_STEP mod 8) + 1` (R89). -/
def nextStep : SeqStep → SeqStep
  | .step1 => .step2
  | .step2 => .step3
  | .step3 => .step4
  | .step4 => .step5
  | .step5 => .step6
  | .step6 => .step7
  | .step7 => .step8
  | .step8 => .step1

/-- The command issued at each step of the cycle (R88, R93). -/
def cycleCommand (p : Params) : SeqStep → Instr
  | .step1 => .encodeSend 0
  | .step2 => .wait p.tSendWait
  | .step3 => .tryReceive
  | .step4 => .wait p.tRecvWait
  | .step5 => .encodeSend 1
  | .step6 => .wait p.tSendWait
  | .step7 => .tryReceive
  | .step8 => .wait p.tRecvWait

/-- The expansion of a pseudo-command (30_encoding.md R59). -/
def expandPseudo (p : Params) : Pseudo → List Instr
  | .backlightOn => [.setBacklight true]
  | .backlightOff => [.setBacklight false]
  | .pollLine line => [.encodeSend line, .wait p.tSendWait, .tryReceive, .wait p.tRecvWait]
  | .pollCycle =>
    [.encodeSend 0, .wait p.tSendWait, .tryReceive, .wait p.tRecvWait] ++
    [.encodeSend 1, .wait p.tSendWait, .tryReceive, .wait p.tRecvWait]

/-- What SEQ issues next, and the state with it taken: in `AUTO` mode the command of the current step (R89), in `SCRIPT`
mode the next one of the script (R94), of a script used up none. -/
def State.nextIssue (s : State) : Option (Packet × State) :=
  match s.params.seqMode with
  | .auto => some (encodePacket (cycleCommand s.params s.seqStep), s)
  | .script =>
    match s.script with
    | [] => none
    | p :: rest => some (p, { s with script := rest })

/-- The command that SEQ's very next micro-step issues, if that micro-step is an issue (R89): the port is free and
`SEQ_PHASE = ISSUE`. No other agent issues a command on this port (20_memory.md R40). -/
def State.issueNow (s : State) : Option (Packet × State) :=
  if s.portBusy then none
  else
    match s.seqPhase with
    | .stopped => none
    | .busy => none
    | .issue => s.nextIssue

/-- Advance (R89): the command of the current step has completed. In `SCRIPT` mode `SEQ_STEP` is not used, and after the
script's last command "SEQ takes no further step" (R94): nothing changes. DESIGN CHOICE (log 26): between two commands of
a script `SEQ_PHASE` moves as R89 says under the heading of `AUTO`. -/
def seqAdvance (s : State) : State :=
  match s.params.seqMode with
  | .auto => { s with seqStep := nextStep s.seqStep, seqPhase := .issue }
  | .script => if s.script.isEmpty then s else { s with seqPhase := .issue }

end Sys2Proof.Machine
end

