-- ==== Sys2Proof/Machine/Wire.lean ====
section
/-! DEFINITION. The two wire frames of the opcode table as moves: FRAME_IN arrives from the display (30_encoding.md
R48), FRAME_OUT is what the transmit micro-steps send (R45). Neither is a command of a port. -/

namespace Sys2Proof.Machine

/-- FRAME_IN (R48), DEDUCED (log 10): the frame's six bytes arrive, in index order (20_memory.md R32). ENV may append any bytes to `RXQ`
at any boundary (60_exceptions.md R103), and no block state changes until an `RxRead` returns them (R99). -/
def execFrameIn (unchecked buttons complement : Byte) (s : State) : Result :=
  .next (s.rxAppend (frameInBytes unchecked buttons complement))

/-- Whether the block, as it stands, is the sender of these bytes: INIT has run and they are the frame of this line
(41_frame_encoder.md R72, R73). -/
def State.sendsFrame (s : State) (line : Byte) (bytes : List Byte) : Bool :=
  s.initDone && decide (bytes = frame line s.backlight (s.lineStore line))

/-- FRAME_OUT (R45, R46), DESIGN CHOICE (log 9): the block sends a frame only by SEQ's issue of ENCODE_SEND (20_memory.md
R40), a snapshot of its own state (41_frame_encoder.md R73) and one TX_SEND a byte (R30). So the frame is seen to start
where SEQ's next micro-step is that issue and the snapshot gives these bytes; anywhere else no such frame of the block
starts, and nothing changes. -/
def execFrameOut (line backlight : BitVec 1) (text : List Byte) (s : State) : Result :=
  let bytes := frameOutBytes (selectorByte line backlight) text
  let l : Byte := line.zeroExtend 8
  match s.issueNow with
  | none => .next s
  | some (p, t) =>
    if decodeCommand p = .ok (.encodeSend l) ∧ s.sendsFrame l bytes = true then
      .next { snapshot l t with seqPhase := .busy }
    else .next s

end Sys2Proof.Machine
end

