-- ==== Sys2Proof/Machine/Dispatch.lean ====
section
/-! DEFINITION. One arm per instruction: which meaning runs it. -/

namespace Sys2Proof.Machine

def exec (i : Instr) (s : State) : Host.Outcome State Fault Refusal :=
  match i with
  | .init port => Sys2Proof.Machine.execInit port s
  | .setLine line text => Sys2Proof.Machine.execSetLine line text s
  | .setLineAt line col text => Sys2Proof.Machine.execSetLineAt line col text s
  | .clearLine line => Sys2Proof.Machine.execClearLine line s
  | .setBacklight on => Sys2Proof.Machine.execSetBacklight on s
  | .getButtons => Sys2Proof.Machine.execGetButtons s
  | .encodeSend line => Sys2Proof.Machine.execEncodeSend line s
  | .tryReceive => Sys2Proof.Machine.execTryReceive s
  | .wait ms => Sys2Proof.Machine.execWait ms s
  | .diagRead idx => Sys2Proof.Machine.execDiagRead idx s
  | .frameOut line backlight text => Sys2Proof.Machine.execFrameOut line backlight text s
  | .frameIn x b c => Sys2Proof.Machine.execFrameIn x b c s

end Sys2Proof.Machine
end

