-- ==== Sys2Proof/Machine/Issue.lean ====
section
/-! DEFINITION. How a move reaches an instruction: a command delivered on a port is decoded, checked in the order of
60_exceptions.md R98 and run; the sequencer issues, advances and runs the micro-steps of its command
(43_polling_sequencer.md R89, R94). -/

namespace Sys2Proof.Machine

/-- DIAG_READ is a reserved encoding when `HAS_DIAG = false` (30_encoding.md R57). -/
def absentCommand (p : Params) : Instr → Bool
  | .diagRead _ => !p.hasDiag
  | .init _ => false
  | .setLine _ _ => false
  | .setLineAt _ _ _ => false
  | .clearLine _ => false
  | .setBacklight _ => false
  | .getButtons => false
  | .encodeSend _ => false
  | .tryReceive => false
  | .wait _ => false
  | .frameOut _ _ _ => false
  | .frameIn _ _ _ => false

/-- A command is delivered on a port: `Reserved`, then `WrongPort`, then the command's own rule (R98). DESIGN CHOICE
(log 24): the first two refuse at once, also on the sequencer port while a command is in progress there; R98 and
20_memory.md R40 do not say whether such a word is refused when it is offered or only when the port would accept it. -/
def deliver (port : Port) (p : Packet) (s : State) : Result :=
  match decodeCommand p with
  | .error _ => .refused .reserved
  | .ok i =>
    if absentCommand s.params i then .refused .reserved
    else if i.port ≠ port then .refused .wrongPort
    else exec i s

/-- After the issue of a command: `SEQ_PHASE <- BUSY` (R89). -/
def markBusy : Result → Result
  | .next s => .next { s with seqPhase := .busy }
  | .fault f => .fault f
  | .refused r => .refused r

/-- Issue (R89): in `AUTO` mode the command of the current step, in `SCRIPT` mode the next command of the script
(R94); a script that has run out issues nothing. A command takes effect when it is issued (20_memory.md R43). -/
def seqIssue (s : State) : Result :=
  match s.nextIssue with
  | none => .next s
  | some (p, t) => markBusy (deliver .sequencer p t)

/-- One micro-step of SEQ (R89): of the command in progress, else advance, else issue; none while `STOPPED`. -/
def seqTurn (s : State) : Result :=
  if s.portBusy then .next (microStep s)
  else
    match s.seqPhase with
    | .stopped => .next s
    | .busy => .next (seqAdvance s)
    | .issue => seqIssue s

/-- Whether SEQ's very next micro-step is the issue of this command. -/
def State.issuesNow (s : State) (p : Packet) : Bool :=
  match s.issueNow with
  | none => false
  | some (q, _) => decide (decodeCommand q = decodeCommand p)

/-- A command presented on the sequencer port from outside SEQ. It is refused as any other (60_exceptions.md R97;
95_test_vectors.md V-S10, V-X1, V-X2, V-X6). One that is not refused starts only when SEQ issues it, because "SEQ is the
only agent on the sequencer port" (20_memory.md R40): until then it stays pending and SEQ takes its own next micro-step
(log 8). -/
def offer (p : Packet) (s : State) : Result :=
  match deliver .sequencer p s with
  | .next _ => seqTurn (if s.issuesNow p then s else s.hold (.sequencer p))
  | .fault f => .fault f
  | .refused r => .refused r

/-- One move of the interleaving (20_memory.md R37). -/
def takeInput (e : Input) (s : State) : Result :=
  match e with
  | .host p => deliver .host p s
  | .sequencer p => offer p s
  | .seqTurn => seqTurn s
  | .wireIn bytes =>
    match decodeWireIn bytes with
    | .ok i => exec i s
    | .error _ => .next (s.rxAppend bytes)
  | .wireOut bytes =>
    match decodeWireOut bytes with
    | .ok i => exec i s
    | .error _ => .refused .notAFrame

/-- The move that delivers an encoded instruction where it belongs. -/
def inputOf (e : Encoded) : Input :=
  match e with
  | .wireIn bytes => .wireIn bytes
  | .wireOut bytes => .wireOut bytes
  | .command p =>
    match decodeCommand p with
    | .error _ => .host p
    | .ok i => if i.port = .sequencer then .sequencer p else .host p

end Sys2Proof.Machine
end

