-- ==== Sys2Proof/Machine/Step.lean ====
section
/-! DEFINITION. One step: the next move of the interleaving is taken. -/

namespace Sys2Proof.Machine

/-- One atomic micro-step of one agent (20_memory.md R37); which agent's is the next move's to say (log 4). -/
def step (s : State) : Host.Outcome State Fault Refusal := takeInput s.nextMove.1 s.nextMove.2

/-- The state whose next step runs a word numbered as the opcode table numbers it: the instruction is the next move, on
the port or wire it belongs to. A command of the sequencer port is what SEQ issues next: the first one of a test script
(43_polling_sequencer.md R94, log 11). -/
def State.withFetchWord (s : State) (nbits w : Nat) : State :=
  match inputOf (tableEncoded nbits w) with
  | .sequencer p =>
    { s with
      params := { s.params with seqMode := .script }
      script := p :: s.script
      seqPhase := if s.initDone then .issue else s.seqPhase
      inputs := .sequencer p :: s.inputs }
  | e => { s with inputs := e :: s.inputs }

end Sys2Proof.Machine
end

