-- ==== Sys2Proof/Machine/Assembler.lean ====
section
/-! DEFINITION. The written form of the commands (30_encoding.md R58) and of the pseudo-commands (R59): one line of
characters to the instructions it stands for. An operand that does not fit its field is an assembly error, not a
command. Characters are given by their codes (R58: ASCII, from general knowledge). -/

namespace Sys2Proof.Machine

/-- What the assembler finds wrong with a line. -/
inductive AsmError where
  /-- A character or an escape that R58 does not allow, or a string without its closing quote. -/
  | badText
  /-- No command of R58 or R59. -/
  | unknownCommand
  /-- Operands missing, too many, or of the wrong kind. -/
  | badOperands
  /-- A number that does not fit its field. -/
  | outOfField
  /-- DIAG_READ where `HAS_DIAG = false`. -/
  | absent
deriving DecidableEq, Repr

/-- A piece of a line. -/
inductive Token where
  | word (chars : List Char)
  | comma
  | text (bytes : List Byte)
deriving DecidableEq, Repr

/-- Where the reading of a line stands; texts are gathered last byte first. -/
inductive LexMode where
  | between
  | inWord (chars : List Char)
  | inText (bytes : List Byte)
  | escape (bytes : List Byte)
  | hexHigh (bytes : List Byte)
  | hexLow (bytes : List Byte) (high : Nat)
deriving DecidableEq, Repr

/-- The value of a digit character in base 16, or `none`. -/
def digitValue (c : Char) : Option Nat :=
  let n := c.toNat
  if 0x30 ≤ n ∧ n ≤ 0x39 then some (n - 0x30)
  else if 0x41 ≤ n ∧ n ≤ 0x46 then some (n - 0x41 + 10)
  else if 0x61 ≤ n ∧ n ≤ 0x66 then some (n - 0x61 + 10)
  else none

/-- Split a line into tokens (R58): spaces and tabs separate, `;` begins a comment, a string literal holds printable
ASCII and the three escapes. -/
def lexLine : LexMode → List Char → Except AsmError (List Token)
  | .between, [] => .ok []
  | .inWord w, [] => .ok [.word w.reverse]
  | .inText _, [] => .error .badText
  | .escape _, [] => .error .badText
  | .hexHigh _, [] => .error .badText
  | .hexLow _ _, [] => .error .badText
  | .between, c :: cs =>
    let n := c.toNat
    if n = 0x20 ∨ n = 0x09 then lexLine .between cs
    else if n = 0x3B then .ok []
    else if n = 0x2C then (lexLine .between cs).map (Token.comma :: ·)
    else if n = 0x22 then lexLine (.inText []) cs
    else lexLine (.inWord [c]) cs
  | .inWord w, c :: cs =>
    let n := c.toNat
    if n = 0x20 ∨ n = 0x09 then (lexLine .between cs).map (Token.word w.reverse :: ·)
    else if n = 0x3B then .ok [.word w.reverse]
    else if n = 0x2C then (lexLine .between cs).map fun ts => Token.word w.reverse :: Token.comma :: ts
    else if n = 0x22 then .error .badText
    else lexLine (.inWord (c :: w)) cs
  | .inText t, c :: cs =>
    let n := c.toNat
    if n = 0x22 then (lexLine .between cs).map (Token.text t.reverse :: ·)
    else if n = 0x5C then lexLine (.escape t) cs
    else if 0x20 ≤ n ∧ n ≤ 0x7E then lexLine (.inText (BitVec.ofNat 8 n :: t)) cs
    else .error .badText
  | .escape t, c :: cs =>
    let n := c.toNat
    if n = 0x78 then lexLine (.hexHigh t) cs
    else if n = 0x22 ∨ n = 0x5C then lexLine (.inText (BitVec.ofNat 8 n :: t)) cs
    else .error .badText
  | .hexHigh t, c :: cs =>
    match digitValue c with
    | some h => lexLine (.hexLow t h) cs
    | none => .error .badText
  | .hexLow t h, c :: cs =>
    match digitValue c with
    | some l => lexLine (.inText (BitVec.ofNat 8 (16 * h + l) :: t)) cs
    | none => .error .badText

/-- Digits in a base, most significant first, after a value already read. -/
def readDigits (base : Nat) : Nat → List Char → Option Nat
  | acc, [] => some acc
  | acc, c :: cs =>
    match digitValue c with
    | some d => if d < base then readDigits base (base * acc + d) cs else none
    | none => none

/-- A number: decimal, or hexadecimal with `0x` (R58). -/
def readNat : List Char → Option Nat
  | [] => none
  | '0' :: 'x' :: c :: cs => readDigits 16 0 (c :: cs)
  | c :: cs => readDigits 10 0 (c :: cs)

/-- A number that may be negative, for the column (R58). -/
def readInt : List Char → Option Int
  | '-' :: cs => (readNat cs).map fun n => -(n : Int)
  | cs => (readNat cs).map fun n => (n : Int)

/-- An unsigned operand that must fit `bits` bits (R58). -/
def unsignedOperand (bits : Nat) (chars : List Char) : Except AsmError (BitVec bits) :=
  match readNat chars with
  | none => .error .badOperands
  | some n => if n < 2 ^ bits then .ok (BitVec.ofNat bits n) else .error .outOfField

/-- The column operand, -128 to 127 (R58). -/
def columnOperand (chars : List Char) : Except AsmError (BitVec 8) :=
  match readInt chars with
  | none => .error .badOperands
  | some n => if -128 ≤ n ∧ n ≤ 127 then .ok (BitVec.ofInt 8 n) else .error .outOfField

/-- The names of R58 and R59. -/
inductive CommandName where
  | init
  | setLine
  | setLineAt
  | clearLine
  | setBacklight
  | getButtons
  | diagRead
  | encodeSend
  | tryReceive
  | wait
  | backlightOn
  | backlightOff
  | pollLine
  | pollCycle
deriving DecidableEq, Repr

/-- How each name is written (R58, R59). -/
def commandNames : List (List Char × CommandName) :=
  [(['I', 'N', 'I', 'T'], .init),
   (['S', 'E', 'T', '_', 'L', 'I', 'N', 'E'], .setLine),
   (['S', 'E', 'T', '_', 'L', 'I', 'N', 'E', '_', 'A', 'T'], .setLineAt),
   (['C', 'L', 'E', 'A', 'R', '_', 'L', 'I', 'N', 'E'], .clearLine),
   (['S', 'E', 'T', '_', 'B', 'A', 'C', 'K', 'L', 'I', 'G', 'H', 'T'], .setBacklight),
   (['G', 'E', 'T', '_', 'B', 'U', 'T', 'T', 'O', 'N', 'S'], .getButtons),
   (['D', 'I', 'A', 'G', '_', 'R', 'E', 'A', 'D'], .diagRead),
   (['E', 'N', 'C', 'O', 'D', 'E', '_', 'S', 'E', 'N', 'D'], .encodeSend),
   (['T', 'R', 'Y', '_', 'R', 'E', 'C', 'E', 'I', 'V', 'E'], .tryReceive),
   (['W', 'A', 'I', 'T'], .wait),
   (['B', 'A', 'C', 'K', 'L', 'I', 'G', 'H', 'T', '_', 'O', 'N'], .backlightOn),
   (['B', 'A', 'C', 'K', 'L', 'I', 'G', 'H', 'T', '_', 'O', 'F', 'F'], .backlightOff),
   (['P', 'O', 'L', 'L', '_', 'L', 'I', 'N', 'E'], .pollLine),
   (['P', 'O', 'L', 'L', '_', 'C', 'Y', 'C', 'L', 'E'], .pollCycle)]

/-- A command or pseudo-command from its name and the tokens after it (R58, R59). -/
def assembleCommand (p : Params) : CommandName → List Token → Except AsmError (List Instr)
  | .init, [.word port] => (unsignedOperand 8 port).map fun v => [.init v]
  | .setLine, [.word line, .comma, .text t] => (unsignedOperand 8 line).map fun v => [.setLine v t]
  | .setLineAt, [.word line, .comma, .word col, .comma, .text t] =>
    (unsignedOperand 8 line).bind fun v => (columnOperand col).map fun c => [.setLineAt v c t]
  | .clearLine, [.word line] => (unsignedOperand 8 line).map fun v => [.clearLine v]
  | .setBacklight, [.word on] => (unsignedOperand 1 on).map fun v => [.setBacklight (v.getLsbD 0)]
  | .getButtons, [] => .ok [.getButtons]
  | .diagRead, [.word idx] =>
    if p.hasDiag then (unsignedOperand 3 idx).map fun v => [.diagRead v] else .error .absent
  | .encodeSend, [.word line] => (unsignedOperand 8 line).map fun v => [.encodeSend v]
  | .tryReceive, [] => .ok [.tryReceive]
  | .wait, [.word ms] => (unsignedOperand 28 ms).map fun v => [.wait v]
  | .backlightOn, [] => .ok (expandPseudo p .backlightOn)
  | .backlightOff, [] => .ok (expandPseudo p .backlightOff)
  | .pollLine, [.word line] => (unsignedOperand 8 line).map fun v => expandPseudo p (.pollLine v)
  | .pollCycle, [] => .ok (expandPseudo p .pollCycle)
  | _, _ => .error .badOperands

/-- A line's tokens; a line with nothing on it stands for nothing. -/
def assembleTokens (p : Params) : List Token → Except AsmError (List Instr)
  | [] => .ok []
  | .word w :: operands =>
    match commandNames.lookup w with
    | some name => assembleCommand p name operands
    | none => .error .unknownCommand
  | .comma :: _ => .error .unknownCommand
  | .text _ :: _ => .error .unknownCommand

/-- One written line to the instructions it stands for (R58, R59). -/
def assembleLine (p : Params) (line : List Char) : Except AsmError (List Instr) :=
  (lexLine .between line).bind (assembleTokens p)

end Sys2Proof.Machine
end

