-- ==== Sys2Proof/Safety.lean ====
section
/-! DEFINITION. What claims speak of: the invariant every step keeps, the states a run from power-on can be in, when
a run has ended and what is observed of it (70_reset_and_hazards.md R122). -/

namespace Sys2Proof.Machine

/-- A whole outbound frame: 22 bytes, the header, a selector of 0x00 to 0x03, bytes 4 to 21 summing to 0 (R45, R77). -/
def IsOutFrame (bytes : List Byte) : Prop :=
  bytes.length = frameOutLen ∧ bytes.take 4 = headerOut ∧ (bytes.getD 4 0).toNat ≤ 3 ∧ sum8 (bytes.drop 4) = 0

/-- The invariant: line storage in its one form, column 16 of both lines 0x00 (R21); the counts in their ranges and
the frame buffer a whole frame while it is being sent (R23, R24, R77); one command at a time on the sequencer port
(20_memory.md R40); nothing runs before INIT and the sequencer never stops after it (R27). -/
structure Invariant (s : State) : Prop where
  admitted    : s.params.admitted
  memWf       : s.mem.wf = true
  terminator0 : s.lineByte 0 16 = 0
  terminator1 : s.lineByte 1 16 = 0
  txIdxLe     : s.txIdx ≤ 22
  txIdxBusy   : s.txState ≠ .idle → s.txIdx < 22
  txPollLe    : s.txPoll ≤ s.params.txPollMax
  txPollBusy  : s.txState = .poll → s.txPoll < s.params.txPollMax
  txFrame     : s.txState ≠ .idle → IsOutFrame s.txBuf.toList
  rxCntLe     : s.rxCnt ≤ 17
  rxCntBusy   : s.rxState = .collect ∨ s.rxState = .check → 1 ≤ s.rxCnt
  onePort     : s.txState = .idle ∨ s.rxState = .idle
  beforeInit  : s.initDone = false → s.seqPhase = .stopped ∧ s.txState = .idle ∧ s.rxState = .idle
  afterInit   : s.initDone = true → s.seqPhase ≠ .stopped

/-- `TXLOG` is whole outbound frames, then the bytes already sent of the frame in progress (R76). -/
def TxLogFramed (s : State) : Prop :=
  ∃ frames : List (List Byte), (∀ f ∈ frames, IsOutFrame f) ∧
    s.txLog = frames.flatten ++ (if s.txState = .idle then [] else s.txBuf.toList.take s.txIdx)

/-- A state at power-on with any admitted parameters and whatever the outside world supplies: the moves to come and
how they go on, a script, the answers of `TxReady`, the contents of `RXQ`. -/
def PowerOn (s : State) : Prop :=
  ∃ (params : Params) (inputs : List Input) (later : Schedule) (script : List Packet) (answers : List Bool)
    (rxq : List Byte),
    params.admitted ∧
    s = { State.reset with
      params := params, inputs := inputs, later := later, script := script, readyAnswers := answers, rxq := rxq }

/-- The states of the runs from power-on: every finite interleaving is some list of moves, and a run goes on after it
as its schedule says. -/
inductive Reachable : State → Prop where
  | powerOn {s : State} (h : PowerOn s) : Reachable s
  | step {s t : State} (h : Reachable s) (hs : step s = .next t) : Reachable t

/-- Whether a move offers the block a command, or a frame to send, which starts as a command does. -/
def Input.offersCommand : Input → Bool
  | .host _ => true
  | .sequencer _ => true
  | .wireOut _ => true
  | .seqTurn => false
  | .wireIn _ => false

/-- A `SCRIPT` run has ended (R122): the script is used up and its last command complete, both machines idle, no
command pending among the moves listed (log 25). Bytes may still arrive: R122 does not say "that ENV stopped sending".
The end is the last command's completion: SEQ takes no further step (43_polling_sequencer.md R94). A refusal ends a run without this. -/
def RunEnded (s : State) : Prop :=
  s.params.seqMode = .script ∧ s.script = [] ∧ s.seqPhase ≠ .stopped ∧ s.txState = .idle ∧ s.rxState = .idle ∧
    ∀ e ∈ s.inputs, e.offersCommand = false

/-- What is observed at the end of a `SCRIPT` run (R122). -/
structure Observation where
  txLog     : List Byte
  buttons   : Byte
  backlight : Bool
  line0     : List Byte
  line1     : List Byte
  diag      : Option (Vector Word 8)
  resp      : List Word
deriving DecidableEq, Repr

/-- The observation of a state; the counters exist only with `HAS_DIAG` (R22, R122). -/
def State.observe (s : State) : Observation where
  txLog     := s.txLog
  buttons   := s.buttons
  backlight := s.backlight
  line0     := s.lineStore 0
  line1     := s.lineStore 1
  diag      := if s.params.hasDiag then some s.diag else none
  resp      := s.resp

end Sys2Proof.Machine
end

