-- ==== Sys2Proof/Certificates/Slice0/Obligations.lean ====
section
/-! DEFINITION. The statements for the provers. Each says what the machine does in terms of line storage, registers
and streams; what a meaning leaves unchanged is said by giving the whole next state. -/

open Sys2Proof Sys2Proof.Machine

namespace Sys2Proof.Claims

/-- The state after one more count of `DIAG[i]`: 32 bits, wrapping, and only where the counters exist
(10_state.md R22). -/
def counted (s : State) (i : Fin 8) : State :=
  { s with diag := if s.params.hasDiag = true then s.diag.set i (s.diag[i] + 1) else s.diag }

/-- Neither machine of the sequencer port is at work (20_memory.md R40). -/
def portFree (s : State) : Prop := s.txState = .idle ∧ s.rxState = .idle

/-- No agent but SEQ moves from here on. A claim that something ends needs a premise on ENV (60_exceptions.md R108,
70_reset_and_hazards.md R117), and this is a strong one: ENV stops appending at once, for good (log 4). -/
def alone (s : State) : Prop := s.inputs = [] ∧ s.later = .repeating []

/-- SEQ's next micro-step is the issue of `i`, and `left` is the script after it: the row of `SEQ_STEP` in `AUTO` mode, the
next command of the script in `SCRIPT` mode (43_polling_sequencer.md R88, R89, R94). -/
def issues (s : State) (i : Instr) (left : List Packet) : Prop :=
  portFree s ∧ s.seqPhase = .issue ∧
    ((s.params.seqMode = .auto ∧ i = cycleCommand s.params s.seqStep ∧ left = s.script) ∨
      (s.params.seqMode = .script ∧ ∃ p, s.script = p :: left ∧ decodeCommand p = .ok i))

/-- What the accept predicate of 42_receive_assembler.md R81 makes of a whole burst: the buttons byte, or nothing. -/
def acceptedBurst : List Byte → Option Byte
  | [b0, b1, b2, _, b4, b5] => if b0 = 0xAA ∧ b1 = 0x55 ∧ b2 = 0x16 ∧ b4 + b5 = 0 then some b4 else none
  | _ => none

/-- The same state with other counters, present or absent (10_state.md R22). -/
def withDiag (s : State) (present : Bool) (d : Vector Word 8) : State :=
  { s with params := { s.params with hasDiag := present }, diag := d }

end Sys2Proof.Claims

open Sys2Proof.Claims

/-! ### Encodings -/

/-- The words of 30_encoding.md R60, and two frames, written out from their encodings. -/
def Obligations.SpecExampleWordsDecode : Prop :=
  decodeCommand ⟨0x20010000, [0x48, 0x49]⟩ = .ok (.setLine 1 [0x48, 0x49]) ∧
  decodeCommand ⟨0x30000500, [0x58]⟩ = .ok (.setLineAt 0 5 [0x58]) ∧
  decodeCommand ⟨0x3001FF00, [0x58]⟩ = .ok (.setLineAt 1 (BitVec.ofInt 8 (-1)) [0x58]) ∧
  decodeCommand ⟨0x70000000, []⟩ = .ok (.encodeSend 0) ∧
  decodeCommand ⟨0x70020000, []⟩ = .ok (.encodeSend 2) ∧
  decodeCommand ⟨0x90000014, []⟩ = .ok (.wait 20) ∧
  decodeCommand ⟨0x50000001, []⟩ = .ok (.setBacklight true) ∧
  decodeCommand ⟨0x10000003, []⟩ = .ok (.init 3) ∧
  decodeCommand ⟨0x50000002, []⟩ = .error .unusedFieldSet ∧
  decodeCommand ⟨0xC0000000, []⟩ = .error .reservedOpcode ∧
  decodeWireIn [0xAA, 0x55, 0x16, 0x3C, 0x01, 0xFF] = .ok (.frameIn 0x3C 0x01 0xFF) ∧
  decodeWireOut ([0xAA, 0x55, 0x1E, 0x12, 0x03] ++ List.replicate 16 0x20 ++ [0xFD]) =
    .ok (.frameOut 1 1 (List.replicate 16 0x20))

/-- Decoding an encoded well-formed instruction gives it back, every operand at every value. -/
def Obligations.EncodeThenDecodeGivesTheInstruction : Prop :=
  ∀ i : Instr, i.wellFormed = true → decode (encode i) = .ok i

/-- What decodes is well formed and encodes back to the same word or the same bytes, so no two instructions share one. -/
def Obligations.DecodedInstructionEncodesBack : Prop :=
  (∀ (p : Packet) (i : Instr), decodeCommand p = .ok i → i.wellFormed = true ∧ encodeWord i = p.word) ∧
  (∀ (bytes : List Byte) (i : Instr), decodeWireOut bytes = .ok i → i.wellFormed = true ∧ encode i = .wireOut bytes) ∧
  (∀ (bytes : List Byte) (i : Instr), decodeWireIn bytes = .ok i → i.wellFormed = true ∧ encode i = .wireIn bytes)

/-- The opcode map of 30_encoding.md R56: a word is a command exactly when it matches that command's row, with the
operands in the fields of R53; a word that matches no row is refused as `Reserved` on either port. That it is refused
at once also where a command is in progress on the sequencer port is the model's choice (log 24). -/
def Obligations.CommandWordsFollowTheOpcodeMap : Prop :=
  ∀ p : Packet,
    (p.word &&& 0xFFFFFF00 = 0x10000000 ↔ decodeCommand p = .ok (.init (p.word.extractLsb' 0 8))) ∧
    (p.word &&& 0xFF00FFFF = 0x20000000 ↔ decodeCommand p = .ok (.setLine (p.word.extractLsb' 16 8) p.text)) ∧
    (p.word &&& 0xFF0000FF = 0x30000000 ↔
      decodeCommand p = .ok (.setLineAt (p.word.extractLsb' 16 8) (p.word.extractLsb' 8 8) p.text)) ∧
    (p.word &&& 0xFF00FFFF = 0x40000000 ↔ decodeCommand p = .ok (.clearLine (p.word.extractLsb' 16 8))) ∧
    (p.word &&& 0xFFFFFFFE = 0x50000000 ↔ decodeCommand p = .ok (.setBacklight (p.word.getLsbD 0))) ∧
    (p.word = 0x60000000 ↔ decodeCommand p = .ok .getButtons) ∧
    (p.word &&& 0xFF00FFFF = 0x70000000 ↔ decodeCommand p = .ok (.encodeSend (p.word.extractLsb' 16 8))) ∧
    (p.word = 0x80000000 ↔ decodeCommand p = .ok .tryReceive) ∧
    (p.word &&& 0xF0000000 = 0x90000000 ↔ decodeCommand p = .ok (.wait (p.word.extractLsb' 0 28))) ∧
    (p.word &&& 0xFFFFFFF8 = 0xA0000000 ↔ decodeCommand p = .ok (.diagRead (p.word.extractLsb' 0 3))) ∧
    ((∀ i, decodeCommand p ≠ .ok i) → ∀ (port : Port) (s : State), deliver port p s = .refused .reserved)

/-- 30_encoding.md R57: the reserved opcodes, any bit set in a field the opcode does not use, and DIAG_READ without
the counters are refused as `Reserved`, on either port and in every state. That it is at once also where a command is
in progress on the sequencer port is the model's choice (log 24). -/
def Obligations.ReservedEncodingsAreRefused : Prop :=
  ∀ (p : Packet) (port : Port) (s : State),
    (p.word.extractLsb' 28 4 = 0 ∨ 0xB ≤ (p.word.extractLsb' 28 4).toNat ∨
      (p.word.extractLsb' 28 4 = 0x1 ∧ p.word &&& 0x0FFFFF00 ≠ 0) ∨
      (p.word.extractLsb' 28 4 = 0x2 ∧ p.word &&& 0x0F00FFFF ≠ 0) ∨
      (p.word.extractLsb' 28 4 = 0x3 ∧ p.word &&& 0x0F0000FF ≠ 0) ∨
      (p.word.extractLsb' 28 4 = 0x4 ∧ p.word &&& 0x0F00FFFF ≠ 0) ∨
      (p.word.extractLsb' 28 4 = 0x5 ∧ p.word &&& 0x0FFFFFFE ≠ 0) ∨
      (p.word.extractLsb' 28 4 = 0x6 ∧ p.word &&& 0x0FFFFFFF ≠ 0) ∨
      (p.word.extractLsb' 28 4 = 0x7 ∧ p.word &&& 0x0F00FFFF ≠ 0) ∨
      (p.word.extractLsb' 28 4 = 0x8 ∧ p.word &&& 0x0FFFFFFF ≠ 0) ∨
      (p.word.extractLsb' 28 4 = 0xA ∧ p.word &&& 0x0FFFFFF8 ≠ 0) ∨
      (p.word.extractLsb' 28 4 = 0xA ∧ s.params.hasDiag = false)) →
    deliver port p s = .refused .reserved

/-- The inbound frame as the match and mask of 30_encoding.md R49 over its 48 bits, byte 0 in bits 47:40; a burst of
any other length matches no row. -/
def Obligations.InboundFrameMatchesItsMask : Prop :=
  (∀ b0 b1 b2 b3 b4 b5 : Byte,
    (b0 ++ b1 ++ b2 ++ b3 ++ b4 ++ b5 : BitVec 48) &&& 0xFFFFFF000000 = 0xAA5516000000 ↔
      decodeWireIn [b0, b1, b2, b3, b4, b5] = .ok (.frameIn b3 b4 b5)) ∧
  (∀ bytes : List Byte, bytes.length ≠ 6 → ∀ i, decodeWireIn bytes ≠ .ok i)

/-- The selector byte (30_encoding.md R46): bit 0 the line, bit 1 the backlight, bits 7:2 zero; and the decoder of
the wire reads it back. -/
def Obligations.SelectorHoldsLineAndBacklight : Prop :=
  ∀ (line : Byte) (backlight : Bool), line.toNat ≤ 1 →
    (frameSelector line backlight).toNat = line.toNat + (if backlight then 2 else 0) ∧
    (frameSelector line backlight).getLsbD 0 = line.getLsbD 0 ∧
    (frameSelector line backlight).getLsbD 1 = backlight ∧
    (frameSelector line backlight).extractLsb' 2 6 = 0 ∧
    frameSelector line backlight = selectorByte (line.extractLsb' 0 1) (BitVec.ofBool backlight)

/-- The frame of 41_frame_encoder.md R72 byte by byte: the header, the selector, the text up to the line's first 0x00
and spaces from there on (R70), and the checksum as the 8-bit two's complement of the sum of the 17 bytes before it
(R71). -/
def Obligations.FrameIsHeaderSelectorTextChecksum : Prop :=
  ∀ (line : Byte) (backlight : Bool) (store : List Byte), line.toNat ≤ 1 → store.length = 17 →
    (frame line backlight store).length = 22 ∧
    (frame line backlight store).take 4 = [0xAA, 0x55, 0x1E, 0x12] ∧
    ((frame line backlight store).getD 4 0).toNat = line.toNat + (if backlight then 2 else 0) ∧
    (∀ k, k < 16 → (∀ j, j ≤ k → store.getD j 0 ≠ 0) → (frame line backlight store).getD (5 + k) 0 = store.getD k 0) ∧
    (∀ k j, k < 16 → j ≤ k → store.getD j 0 = 0 → (frame line backlight store).getD (5 + k) 0 = 0x20) ∧
    ((frame line backlight store).getD 21 0).toNat =
      (0x100 - (((frame line backlight store).drop 4).take 17).foldl (fun n b => n + b.toNat) 0 % 256) % 256

/-- 41_frame_encoder.md R77 (1), (3), (4): bytes 4 to 21 of every frame sum to zero, its header is constant, its
selector is 0x00 to 0x03; so every frame is a whole outbound frame in the sense the invariant uses. -/
def Obligations.EveryFrameSumsToZero : Prop :=
  ∀ (line : Byte) (backlight : Bool) (store : List Byte), line.toNat ≤ 1 →
    sum8 ((frame line backlight store).drop 4) = 0 ∧ IsOutFrame (frame line backlight store)

/-- The pseudo-command POLL_CYCLE (30_encoding.md R59) is the eight commands of the cycle (43_polling_sequencer.md R88)
in order. -/
def Obligations.PollCycleExpandsToTheCycle : Prop :=
  ∀ p : Params,
    expandPseudo p .pollCycle =
      [SeqStep.step1, .step2, .step3, .step4, .step5, .step6, .step7, .step8].map (cycleCommand p) ∧
    expandPseudo p .pollCycle = expandPseudo p (.pollLine 0) ++ expandPseudo p (.pollLine 1) ∧
    expandPseudo p .backlightOn = [.setBacklight true] ∧ expandPseudo p .backlightOff = [.setBacklight false]

/-! ### Reset and invariants -/

/-- Power-on (70_reset_and_hazards.md R109): not initialised, both lines 0x00 in every column, the machines idle, the
sequencer stopped; and TXLOG empty (10_state.md R28). -/
def Obligations.PowerOnLeavesEmptyLinesAndIdleMachines : Prop :=
  State.reset.initDone = false ∧
  (∀ (line : Byte) (c : Nat), State.reset.lineByte line c = 0) ∧
  State.reset.txState = .idle ∧ State.reset.rxState = .idle ∧ State.reset.seqPhase = .stopped ∧
  State.reset.txLog = []

/-- The invariant holds at reset, and at power-on with any admitted parameters and any inputs to come. -/
def Obligations.InvariantHoldsAtPowerOn : Prop :=
  Invariant State.reset ∧ TxLogFramed State.reset ∧ ∀ s : State, PowerOn s → Invariant s ∧ TxLogFramed s

/-- Every step keeps the invariant. -/
def Obligations.EveryStepKeepsTheInvariant : Prop :=
  ∀ s t : State, Invariant s → step s = .next t → Invariant t

/-- 10_state.md R21: column 16 of both lines reads 0x00 in every reachable state. -/
def Obligations.LineTerminatorsStayZero : Prop :=
  ∀ s : State, Reachable s → s.lineByte 0 16 = 0 ∧ s.lineByte 1 16 = 0

/-- Whatever the interleaving and whatever `TxReady` answers, `TXLOG` is at every moment whole outbound frames and
then the bytes already sent of the one in progress (41_frame_encoder.md R76). -/
def Obligations.TxLogIsAlwaysWholeFrames : Prop :=
  ∀ s t : State, Invariant s → TxLogFramed s → step s = .next t → TxLogFramed t

/-! ### How a move reaches an instruction -/

/-- When the next move delivers what decodes to an instruction at its own port or wire, the step is that instruction run on
the state with the move taken; when it is SEQ's, the step is SEQ's, and where that is an issue it runs the command issued
and marks it busy. A command presented on the sequencer port after INIT runs when SEQ issues it, and stays pending until
then: SEQ is the only agent there (20_memory.md R40). That it stays pending is the model's reading (log 8), that the issue
and the command's first micro-step are one step too (log 7), and how `SEQ_PHASE` moves in `SCRIPT` mode its choice (log
26). 20_memory.md R37 lets any agent move next: which one does, the list of moves and what follows it, is the model's choice
(log 4), and so is what the two wire frames do as moves (logs 9 and 10). -/
def Obligations.StepRunsTheDecodedInstruction : Prop :=
  ∀ (s s' : State) (i : Instr),
    (∀ p, s.nextMove = (.host p, s') → decodeCommand p = .ok i → i.port = .host → step s = exec i s') ∧
    (∀ bytes, s.nextMove = (.wireIn bytes, s') → decodeWireIn bytes = .ok i → step s = exec i s') ∧
    (∀ bytes, s.nextMove = (.wireOut bytes, s') → decodeWireOut bytes = .ok i → step s = exec i s') ∧
    (s.nextMove = (.seqTurn, s') → step s = seqTurn s') ∧
    (∀ left, s.nextMove = (.seqTurn, s') → s'.initDone = true → issues s' i left → i.port = .sequencer →
      ∃ t, exec i { s' with script := left } = .next t ∧ step s = .next { t with seqPhase := .busy }) ∧
    (∀ p, s.nextMove = (.sequencer p, s') → decodeCommand p = .ok i → i.port = .sequencer →
      (s'.initDone = false → step s = exec i s') ∧
      (∀ left, s'.initDone = true → issues s' i left →
        ∃ t, exec i { s' with script := left } = .next t ∧ step s = .next { t with seqPhase := .busy }) ∧
      (s'.initDone = true → (∀ left, ¬ issues s' i left) →
        step s = seqTurn { s' with inputs := .sequencer p :: s'.inputs })) ∧
    (∀ e rest, s.inputs = e :: rest → s.nextMove = (e, { s with inputs := rest })) ∧
    (∀ e rest, s.inputs = [] → s.later = .repeating (e :: rest) → s.nextMove = (e, { s with inputs := rest })) ∧
    (s.inputs = [] → s.later = .repeating [] → s.nextMove = (.seqTurn, s)) ∧
    (s.inputs = [] → s.later = .free → s.nextMove = (Config.moveDraw s.drawn, { s with drawn := s.drawn + 1 }))

/-- A command is refused for one of the reasons of 60_exceptions.md R97, the first that applies in the order of R98;
and for no other reason: with none of them it answers a next state. That `Reserved` and `WrongPort` refuse at once
also where a command is in progress on the sequencer port is the model's choice (log 24). That a command goes on where it
is offered while another is in progress there (it waits), and where a text comes with a command that takes none (the text is
ignored), is the model's reading (logs 8 and 12). -/
def Obligations.CommandsAreRefusedInOrderAndOnlySo : Prop :=
  ∀ (port : Port) (p : Packet) (s : State),
    ((∀ i, decodeCommand p ≠ .ok i) → deliver port p s = .refused .reserved) ∧
    (∀ i, decodeCommand p = .ok i →
      ((∃ idx, i = .diagRead idx) ∧ s.params.hasDiag = false → deliver port p s = .refused .reserved) ∧
      (¬ ((∃ idx, i = .diagRead idx) ∧ s.params.hasDiag = false) →
        (i.port ≠ port → deliver port p s = .refused .wrongPort) ∧
        (i.port = port →
          (s.initDone = false → (∀ q, i ≠ .init q) → deliver port p s = .refused .notInitialised) ∧
          (s.initDone = true → (∃ q, i = .init q) → deliver port p s = .refused .doubleInit) ∧
          ((s.initDone = true ↔ ∀ q, i ≠ .init q) → ∃ t, deliver port p s = .next t))))

/-- While a command is in progress the sequencer port takes no other (20_memory.md R40): the command offered has none
of its effect and stays pending, and the one in progress takes its next micro-step. -/
def Obligations.BusySequencerPortMakesCommandsWait : Prop :=
  ∀ (s : State) (i : Instr), s.initDone = true → ¬ portFree s →
    i = .tryReceive ∨ (∃ line, i = .encodeSend line) ∨ (∃ ms, i = .wait ms) →
    ∃ t, exec i s = .next { t with inputs := .sequencer (encodePacket i) :: s.inputs } ∧
      seqTurn s = .next t ∧ t.waitMs = s.waitMs ∧ t.txBuf = s.txBuf ∧ t.mem = s.mem

/-! ### Host-port commands -/

/-- INIT (40_line_api.md R62): its encoding, its whole effect on a block not yet initialised, and the refusal of a
second one. The call record of `ConfigureBaud` is the model's (log 14). -/
def Obligations.InitBindsZeroesAndStarts : Prop :=
  ∀ (port : Byte) (s : State),
    decodeCommand ⟨0x1#4 ++ 0#4 ++ 0#8 ++ 0#8 ++ port, []⟩ = .ok (.init port) ∧
    (s.initDone = false →
      exec (.init port) s = .next { s with
        port := port, baudCalls := s.baudCalls ++ [(port, s.params.baudRate)], backlight := false, buttons := 0,
        diag := if s.params.hasDiag = true then Vector.replicate 8 0 else s.diag,
        initDone := true, seqPhase := .issue,
        seqStep := if s.params.seqMode = .auto then .step1 else s.seqStep }) ∧
    (s.initDone = true → exec (.init port) s = .refused .doubleInit)

/-- SET_LINE (40_line_api.md R63): the encoding, the refusal before INIT, the silent no-op, and what every column
holds after it; every byte outside the line, and all other state, is unchanged. -/
def Obligations.SetLineReplacesTheWholeLine : Prop :=
  ∀ (line : Byte) (text : List Byte) (s : State),
    decodeCommand ⟨0x2#4 ++ 0#4 ++ line ++ 0#8 ++ 0#8, text⟩ = .ok (.setLine line text) ∧
    (s.initDone = false → exec (.setLine line text) s = .refused .notInitialised) ∧
    (s.initDone = true → 1 < line.toNat → exec (.setLine line text) s = .next (counted s 6)) ∧
    (s.initDone = true → line.toNat ≤ 1 → s.mem.wf = true →
      ∃ m : Memory, exec (.setLine line text) s = .next { s with mem := m } ∧ m.wf = true ∧
        (∀ c, c ≤ 16 → m.readByte (lineAddr line c) = if c < min (textLen text) 16 then text.getD c 0 else 0) ∧
        (∀ a, ¬ (lineAddr line 0 ≤ a ∧ a ≤ lineAddr line 16) → m.readByte a = s.mem.readByte a))

/-- SET_LINE_AT (40_line_api.md R64): the encoding, the refusal before INIT, the silent no-op for a bad line, a bad
column, or both (counted once), and what every column holds after it under either `SET_AT_TAIL`; every byte outside
the line's columns from `col` to 15, and all other state, is unchanged. -/
def Obligations.SetLineAtWritesFromItsColumn : Prop :=
  ∀ (line : Byte) (col : BitVec 8) (text : List Byte) (s : State),
    decodeCommand ⟨0x3#4 ++ 0#4 ++ line ++ col ++ 0#8, text⟩ = .ok (.setLineAt line col text) ∧
    (s.initDone = false → exec (.setLineAt line col text) s = .refused .notInitialised) ∧
    (s.initDone = true → 1 < line.toNat ∨ col.toInt < 0 ∨ 16 ≤ col.toInt →
      exec (.setLineAt line col text) s = .next (counted s 6)) ∧
    (s.initDone = true → line.toNat ≤ 1 → 0 ≤ col.toInt → col.toInt < 16 → s.mem.wf = true →
      ∃ m : Memory, exec (.setLineAt line col text) s = .next { s with mem := m } ∧ m.wf = true ∧
        (∀ k, k < min (textLen text) (16 - col.toNat) →
          m.readByte (lineAddr line (col.toNat + k)) = text.getD k 0) ∧
        (∀ c, col.toNat + min (textLen text) (16 - col.toNat) ≤ c → c < 16 →
          m.readByte (lineAddr line c) =
            if s.params.setAtTail = .zeroFill then 0 else s.mem.readByte (lineAddr line c)) ∧
        (∀ a, ¬ (lineAddr line col.toNat ≤ a ∧ a ≤ lineAddr line 15) → m.readByte a = s.mem.readByte a))

/-- CLEAR_LINE (40_line_api.md R65): the encoding, the refusal before INIT, the silent no-op, 16 spaces and 0x00;
every byte outside the line, and all other state, is unchanged. -/
def Obligations.ClearLineFillsWithSpaces : Prop :=
  ∀ (line : Byte) (s : State),
    decodeCommand ⟨0x4#4 ++ 0#4 ++ line ++ 0#8 ++ 0#8, []⟩ = .ok (.clearLine line) ∧
    (s.initDone = false → exec (.clearLine line) s = .refused .notInitialised) ∧
    (s.initDone = true → 1 < line.toNat → exec (.clearLine line) s = .next (counted s 6)) ∧
    (s.initDone = true → line.toNat ≤ 1 → s.mem.wf = true →
      ∃ m : Memory, exec (.clearLine line) s = .next { s with mem := m } ∧ m.wf = true ∧
        (∀ c, c < 16 → m.readByte (lineAddr line c) = 0x20) ∧ m.readByte (lineAddr line 16) = 0 ∧
        (∀ a, ¬ (lineAddr line 0 ≤ a ∧ a ≤ lineAddr line 16) → m.readByte a = s.mem.readByte a))

/-- CLEAR_LINE is SET_LINE with 16 spaces, in every state and for every line operand (40_line_api.md R65). -/
def Obligations.ClearLineIsSetLineOfSpaces : Prop :=
  ∀ (line : Byte) (s : State), exec (.clearLine line) s = exec (.setLine line (List.replicate 16 0x20)) s

/-- SET_BACKLIGHT (40_line_api.md R66): the encoding and what is reserved beside it, the refusal before INIT, and its
whole effect. -/
def Obligations.SetBacklightWritesTheFlag : Prop :=
  ∀ (on : Bool) (s : State),
    decodeCommand ⟨0x5#4 ++ 0#4 ++ 0#8 ++ 0#8 ++ 0#7 ++ BitVec.ofBool on, []⟩ = .ok (.setBacklight on) ∧
    (s.initDone = false → exec (.setBacklight on) s = .refused .notInitialised) ∧
    (s.initDone = true → exec (.setBacklight on) s = .next { s with backlight := on }) ∧
    (∀ (w : Word) (text : List Byte), w.extractLsb' 28 4 = 0x5 → w.extractLsb' 1 7 ≠ 0 →
      deliver .host ⟨w, text⟩ s = .refused .reserved)

/-- GET_BUTTONS (40_line_api.md R67): the word, the refusal before INIT, and the response, the buttons byte
zero-extended; nothing else changes. -/
def Obligations.GetButtonsRespondsZeroExtended : Prop :=
  ∀ s : State,
    decodeCommand ⟨0x60000000, []⟩ = .ok .getButtons ∧
    (s.initDone = false → exec .getButtons s = .refused .notInitialised) ∧
    (s.initDone = true → ∃ v : Word, exec .getButtons s = .next { s with resp := s.resp ++ [v] } ∧
      v.toNat = s.buttons.toNat)

/-- DIAG_READ (40_line_api.md R68): the encoding, the refusals in their order, and the response, the counter named by
`idx`; reading changes no counter and nothing else. -/
def Obligations.DiagReadRespondsTheCounter : Prop :=
  ∀ (idx : BitVec 3) (s : State),
    decodeCommand ⟨0xA#4 ++ 0#4 ++ 0#8 ++ 0#8 ++ 0#5 ++ idx, []⟩ = .ok (.diagRead idx) ∧
    (s.params.hasDiag = false → exec (.diagRead idx) s = .refused .reserved) ∧
    (s.params.hasDiag = true → s.initDone = false → exec (.diagRead idx) s = .refused .notInitialised) ∧
    (s.params.hasDiag = true → s.initDone = true →
      exec (.diagRead idx) s = .next { s with resp := s.resp ++ [s.diag[idx.toFin]] })

/-- The text properties of 40_line_api.md R69: what SET_LINE stores is what the next frame of that line carries,
space-padded; a longer text is cut to its first 16 bytes; a column outside [0,16) leaves every line as it was. -/
def Obligations.TextSetIsTextSent : Prop :=
  ∀ (line : Byte) (text : List Byte) (s : State),
    (s.initDone = true → portFree s → s.mem.wf = true → line.toNat ≤ 1 →
      ∃ t u, exec (.setLine line text) s = .next t ∧ exec (.encodeSend line) t = .next u ∧
        (textLen text ≤ 16 → (u.txBuf.toList.drop 5).take 16 =
          text.take (textLen text) ++ List.replicate (16 - textLen text) 0x20) ∧
        (16 < textLen text → (u.txBuf.toList.drop 5).take 16 = text.take 16 ∧ (t.lineStore line).take 16 = text.take 16)) ∧
    (∀ (col : BitVec 8) (t : State), ¬ (0 ≤ col.toInt ∧ col.toInt < 16) →
      exec (.setLineAt line col text) s = .next t → t.mem = s.mem)

/-! ### The encoder -/

/-- ENCODE_SEND (41_frame_encoder.md R73): the encoding, the refusal before INIT, the no-op that sends nothing, and
the snapshot: the frame of that one state, ready to be sent from its first byte; nothing else changes. -/
def Obligations.EncodeSendSnapshotsTheFrame : Prop :=
  ∀ (line : Byte) (s : State),
    decodeCommand ⟨0x7#4 ++ 0#4 ++ line ++ 0#8 ++ 0#8, []⟩ = .ok (.encodeSend line) ∧
    (s.initDone = false → exec (.encodeSend line) s = .refused .notInitialised) ∧
    (s.initDone = true → portFree s → 1 < line.toNat → exec (.encodeSend line) s = .next (counted s 6)) ∧
    (s.initDone = true → portFree s → line.toNat ≤ 1 →
      ∃ buf : Vector Byte 22, buf.toList = frame line s.backlight (s.lineStore line) ∧
        exec (.encodeSend line) s = .next { s with txBuf := buf, txIdx := 0, txPoll := 0, txState := .poll })

/-- TX_POLL (41_frame_encoder.md R74): one poll, counted; a true answer or the last poll allowed goes on to send, a
last poll without ready being counted; nothing else changes. -/
def Obligations.TxPollPollsOnce : Prop :=
  ∀ s : State, s.txState = .poll →
    seqTurn s = .next
      (let polled := { s with
        readyAnswers := s.readyAnswers.tail, readyCalls := s.readyCalls + 1, txPoll := s.txPoll + 1 }
      if s.readyAnswer = true then { polled with txState := .send }
      else if s.txPoll + 1 = s.params.txPollMax then { counted polled 5 with txState := .send }
      else polled)

/-- TX_SEND (41_frame_encoder.md R75): the byte at `TXIDX` is sent, the index moves on and the poll count clears; after
the 22nd byte the command ends, counted; nothing else changes. -/
def Obligations.TxSendSendsOneByte : Prop :=
  ∀ (s : State) (h : s.txIdx < 22), s.txState = .send →
    seqTurn s = .next
      (let sent := { s with txLog := s.txLog ++ [s.txBuf[s.txIdx]], txIdx := s.txIdx + 1, txPoll := 0 }
      if s.txIdx + 1 = 22 then counted { sent with txState := .idle } 7 else { sent with txState := .poll })

/-- Left alone, ENCODE_SEND with a valid line appends exactly its frame to `TXLOG` and ends, whatever `TxReady`
answers, within `22 × TX_POLL_MAX` polls (41_frame_encoder.md R76). -/
def Obligations.EncodeSendAppendsExactlyItsFrame : Prop :=
  ∀ (line : Byte) (s : State), s.initDone = true → portFree s → alone s → line.toNat ≤ 1 →
    1 ≤ s.params.txPollMax →
    ∃ (s1 t : State) (k : Nat), exec (.encodeSend line) s = .next s1 ∧ Sys2Proof.core.run k s1 = .next t ∧
      t.txLog = s.txLog ++ frame line s.backlight (s.lineStore line) ∧
      s.readyCalls + 22 ≤ t.readyCalls ∧ t.readyCalls ≤ s.readyCalls + 22 * s.params.txPollMax ∧
      t = { s with
        txBuf := t.txBuf, txIdx := t.txIdx, txPoll := t.txPoll, txLog := t.txLog, diag := t.diag,
        readyAnswers := t.readyAnswers, readyCalls := t.readyCalls }

/-- No HOST command reaches the frame in progress: while a frame is being sent, a step that runs a host-port command
leaves the frame, how far it is sent, and `TXLOG` (20_memory.md R39). -/
def Obligations.HostCommandsLeaveTheFrameInProgress : Prop :=
  ∀ (s t : State) (p : Packet), s.nextMove.1 = .host p → step s = .next t →
    t.txBuf = s.txBuf ∧ t.txIdx = s.txIdx ∧ t.txPoll = s.txPoll ∧ t.txState = s.txState ∧ t.txLog = s.txLog ∧
    t.rxBuf = s.rxBuf ∧ t.rxCnt = s.rxCnt ∧ t.rxState = s.rxState ∧ t.rxq = s.rxq

/-- FRAME_OUT as a move, the model's choice (log 9): where SEQ's next micro-step issues ENCODE_SEND of its line and the
snapshot gives its bytes, it is that issue, SEQ's own (one step with the snapshot, log 7; `SEQ_PHASE` in `SCRIPT` mode, log
26); everywhere else the block starts no such frame and nothing changes. -/
def Obligations.FrameOutStartsTheFrameTheBlockSends : Prop :=
  ∀ (line backlight : BitVec 1) (text : List Byte) (s : State),
    let bytes := frameOutBytes (selectorByte line backlight) text
    let l : Byte := line.zeroExtend 8
    (∀ left, s.initDone = true → issues s (.encodeSend l) left → bytes = frame l s.backlight (s.lineStore l) →
      ∃ t, exec (.encodeSend l) { s with script := left } = .next t ∧ t.txBuf.toList = bytes ∧
        exec (.frameOut line backlight text) s = .next { t with seqPhase := .busy } ∧
        seqTurn s = .next { t with seqPhase := .busy }) ∧
    (s.initDone = false ∨ (∀ left, ¬ issues s (.encodeSend l) left) ∨ bytes ≠ frame l s.backlight (s.lineStore l) →
      exec (.frameOut line backlight text) s = .next s)

/-- The 22 bytes of a FRAME_OUT the block sends (log 9) are what SEQ's ENCODE_SEND of that line, left alone, appends to
`TXLOG` one TX_SEND at a time: the two start in the same step and end with exactly those bytes sent. -/
def Obligations.EncodeSendRefinesFrameOut : Prop :=
  ∀ (line backlight : BitVec 1) (text : List Byte) (left : List Packet) (s : State),
    s.initDone = true → issues s (.encodeSend (line.zeroExtend 8)) left → alone s → 1 ≤ s.params.txPollMax →
    frameOutBytes (selectorByte line backlight) text =
      frame (line.zeroExtend 8) s.backlight (s.lineStore (line.zeroExtend 8)) →
    ∃ (s1 t : State) (k : Nat), exec (.frameOut line backlight text) s = .next s1 ∧ step s = .next s1 ∧
      Sys2Proof.core.run k s1 = .next t ∧
      t.txState = .idle ∧ t.txLog = s.txLog ++ frameOutBytes (selectorByte line backlight) text

/-- A counter wraps from 0xFFFFFFFF to 0 (10_state.md R22): the 22nd byte of a frame with `TX_FRAMES` at its top. -/
def Obligations.FrameCounterWraps : Prop :=
  ∀ s t : State, s.params.hasDiag = true → s.txState = .send → s.txIdx = 21 → s.diag[7] = 0xFFFFFFFF →
    seqTurn s = .next t → t.diag[7] = 0 ∧ ∀ i : Fin 8, i ≠ 7 → t.diag[i] = s.diag[i]

/-! ### The receive assembler -/

/-- TRY_RECEIVE (42_receive_assembler.md R78): the word, the refusal before INIT, and its start; nothing else changes. -/
def Obligations.TryReceiveStartsTheAssembler : Prop :=
  ∀ s : State,
    decodeCommand ⟨0x80000000, []⟩ = .ok .tryReceive ∧
    (s.initDone = false → exec .tryReceive s = .refused .notInitialised) ∧
    (s.initDone = true → portFree s → exec .tryReceive s = .next { s with rxState := .first })

/-- RX_FIRST (42_receive_assembler.md R79): with nothing pending the command ends and nothing else changes; otherwise
the byte is taken from the stream and the collection begins. -/
def Obligations.RxFirstReadsOneByte : Prop :=
  ∀ s : State, s.txState = .idle → s.rxState = .first →
    (s.rxq = [] → seqTurn s = .next { s with rxState := .idle }) ∧
    (∀ b rest, s.rxq = b :: rest →
      seqTurn s = .next { s with rxq := rest, rxBuf := s.rxBuf.set 0 b, rxCnt := 1, rxState := .collect })

/-- RX_COLLECT (42_receive_assembler.md R80): at 17 bytes no read; otherwise one read, ending the collection at the
first `NONE`; nothing else changes. -/
def Obligations.RxCollectReadsUpToSeventeen : Prop :=
  ∀ s : State, s.txState = .idle → s.rxState = .collect →
    (s.rxCnt = 17 → seqTurn s = .next { s with rxState := .check }) ∧
    (s.rxCnt < 17 → s.rxq = [] → seqTurn s = .next { s with rxState := .check }) ∧
    (∀ (b : Byte) (rest : List Byte) (h : s.rxCnt < 17), s.rxq = b :: rest →
      seqTurn s = .next { s with rxq := rest, rxBuf := s.rxBuf.set s.rxCnt b, rxCnt := s.rxCnt + 1 })

/-- RX_CHECK with the accept predicate (42_receive_assembler.md R81, R82): the buttons byte is taken exactly on accept,
and exactly one counter counts why, in the order length, header, checksum; nothing else changes. -/
def Obligations.RxCheckAcceptsOrDiscards : Prop :=
  ∀ s : State, s.txState = .idle → s.rxState = .check →
    seqTurn s = .next
      (let header := s.rxBuf[0] = 0xAA ∧ s.rxBuf[1] = 0x55 ∧ s.rxBuf[2] = 0x16
      let drained := { s with rxState := .drain }
      if s.rxCnt = 6 ∧ header ∧ s.rxBuf[4] + s.rxBuf[5] = 0 then counted { drained with buttons := s.rxBuf[4] } 0
      else if s.rxCnt ≠ 6 then counted drained 1
      else if ¬ header then counted drained 2
      else counted drained 3)

/-- RX_DRAIN (42_receive_assembler.md R83): a byte is discarded, counted, and the drain goes on; `NONE` ends the
command; nothing else changes. -/
def Obligations.RxDrainDiscardsUntilNone : Prop :=
  ∀ s : State, s.txState = .idle → s.rxState = .drain →
    (s.rxq = [] → seqTurn s = .next { s with rxState := .idle }) ∧
    (∀ b rest, s.rxq = b :: rest → seqTurn s = .next (counted { s with rxq := rest } 4))

/-- A whole TRY_RECEIVE with nothing arriving during it (42_receive_assembler.md R84, R85, R86): it ends, the stream is
empty, and the buttons change exactly when the burst is six bytes with the header and a zero checksum; line storage,
the backlight and the transmit side are untouched. -/
def Obligations.TryReceiveOutcomeOfABurst : Prop :=
  ∀ s : State, s.initDone = true → portFree s → alone s →
    ∃ (s1 t : State) (k : Nat), exec .tryReceive s = .next s1 ∧ Sys2Proof.core.run k s1 = .next t ∧
      t = { s with
        rxq := [], buttons := (acceptedBurst s.rxq).getD s.buttons,
        rxBuf := t.rxBuf, rxCnt := t.rxCnt, diag := t.diag }

/-- Only an accepting RX_CHECK, and INIT, ever change the buttons (10_state.md R19, 42_receive_assembler.md R86). -/
def Obligations.ButtonsChangeOnlyOnAcceptOrInit : Prop :=
  ∀ s t : State, step s = .next t → t.buttons ≠ s.buttons →
    (s.txState = .idle ∧ s.rxState = .check ∧ s.rxCnt = 6 ∧ s.rxBuf[0] = 0xAA ∧ s.rxBuf[1] = 0x55 ∧
      s.rxBuf[2] = 0x16 ∧ s.rxBuf[4] + s.rxBuf[5] = 0 ∧ t.buttons = s.rxBuf[4]) ∨
    (∃ p port, s.nextMove.1 = .host p ∧ decodeCommand p = .ok (.init port) ∧ s.initDone = false ∧
      t.buttons = 0)

/-- The drain has no bound (70_reset_and_hazards.md R117): however many bytes ENV appends, one before every drain
read, TRY_RECEIVE has not ended after them. -/
def Obligations.DrainRunsWhileBytesArrive : Prop :=
  ∀ (bytes : List Byte) (s : State), s.txState = .idle → s.rxState = .drain →
    s.inputs = bytes.flatMap (fun b => [.wireIn [b], .seqTurn]) →
    ∃ t, Sys2Proof.core.run (2 * bytes.length) s = .next t ∧ t.rxState = .drain ∧ t.rxq.length = s.rxq.length

/-- The hang of 70_reset_and_hazards.md R117 as a run that never ends: with ENV appending a byte before every drain
read, again and again (a schedule of the model, log 4), TRY_RECEIVE has not ended after any number of steps. -/
def Obligations.DrainNeverEndsWhileBytesKeepComing : Prop :=
  ∀ (b : Byte) (s : State), s.txState = .idle → s.rxState = .drain → s.inputs = [] →
    s.later = .repeating [.wireIn [b], .seqTurn] →
    ∀ n : Nat, ∃ t, Sys2Proof.core.run n s = .next t ∧ t.rxState = .drain ∧ t.txLog = s.txLog ∧ t.seqStep = s.seqStep

/-- An arrival changes `RXQ` only, whatever the bytes, in every state (60_exceptions.md R99, R103). That
FRAME_IN as an instruction is the arrival of its six bytes is the model's reading (log 10); 30_encoding.md R48 gives
only what the bytes are. -/
def Obligations.ArrivalsChangeOnlyTheReceiveQueue : Prop :=
  (∀ (s : State) (bytes : List Byte) (rest : List Input), s.inputs = .wireIn bytes :: rest →
    step s = .next { s with inputs := rest, rxq := s.rxq ++ bytes }) ∧
  (∀ (x b c : Byte) (s : State), exec (.frameIn x b c) s =
    .next { s with rxq := s.rxq ++ [0xAA, 0x55, 0x16, x, b, c] })

/-! ### The sequencer -/

/-- WAIT (43_polling_sequencer.md R87): the encoding, the refusal before INIT, and its whole effect in the untimed
model. -/
def Obligations.WaitRecordsItsDelay : Prop :=
  ∀ (ms : Millis) (s : State),
    decodeCommand ⟨0x9#4 ++ ms, []⟩ = .ok (.wait ms) ∧
    (s.initDone = false → exec (.wait ms) s = .refused .notInitialised) ∧
    (s.initDone = true → portFree s → exec (.wait ms) s = .next { s with waitMs := ms })

/-- The cycle (43_polling_sequencer.md R88, R89): in `AUTO` mode an issue runs the command of the step's row and then
marks it busy; an advance goes to the step `(SEQ_STEP mod 8) + 1`; while stopped SEQ takes no step. -/
def Obligations.SequencerRunsTheEightSteps : Prop :=
  ∀ s : State, portFree s → s.params.seqMode = .auto →
    (s.seqPhase = .issue → s.initDone = true →
      ∃ t, exec (match s.seqStep with
          | .step1 => .encodeSend 0
          | .step2 => .wait s.params.tSendWait
          | .step3 => .tryReceive
          | .step4 => .wait s.params.tRecvWait
          | .step5 => .encodeSend 1
          | .step6 => .wait s.params.tSendWait
          | .step7 => .tryReceive
          | .step8 => .wait s.params.tRecvWait) s = .next t ∧
        seqTurn s = .next { t with seqPhase := .busy }) ∧
    (s.seqPhase = .busy → ∃ n, stepNumber n = stepNumber s.seqStep % 8 + 1 ∧
      seqTurn s = .next { s with seqStep := n, seqPhase := .issue }) ∧
    (s.seqPhase = .stopped → seqTurn s = .next s)

/-- `SCRIPT` mode (43_polling_sequencer.md R94): the script's commands are issued in order, each after the one before
it completes; a command of the host port is refused; after the last SEQ takes no further step; `SEQ_STEP` is not used. That
`SEQ_PHASE` moves between the commands of a script as R89 says for the cycle is the model's choice (log 26), that the issue
and the command's first micro-step are one step its reading (log 7). -/
def Obligations.ScriptIsIssuedInOrder : Prop :=
  ∀ s : State, portFree s → s.params.seqMode = .script →
    (∀ p rest i, s.seqPhase = .issue → s.initDone = true → s.script = p :: rest → decodeCommand p = .ok i →
      (i.port = .sequencer → ∃ t, exec i { s with script := rest } = .next t ∧ t.script = rest ∧
        t.seqStep = s.seqStep ∧ seqTurn s = .next { t with seqPhase := .busy }) ∧
      (i.port = .host → ∃ r, seqTurn s = .refused r)) ∧
    (s.script = [] → seqTurn s = .next s) ∧
    (s.seqPhase = .busy → s.script ≠ [] → seqTurn s = .next { s with seqPhase := .issue })

/-- "SEQ is the only agent on the sequencer port" (20_memory.md R40): whatever the next move, a step that starts a command
there is SEQ's issue, of the row of the cycle in `AUTO` mode and of the script's next command in `SCRIPT` mode, after INIT.
That this same step takes `SEQ_PHASE` from ISSUE to BUSY is the model's reading (log 7: the issue and the command's first
micro-step are one step), and that it does so in `SCRIPT` mode the model's choice (log 26). -/
def Obligations.OnlySequencerStartsCommands : Prop :=
  ∀ s t : State, step s = .next t → portFree s → ¬ portFree t ∨ t.waitMs ≠ s.waitMs →
    s.initDone = true ∧ t.seqPhase = .busy ∧ ∃ i, issues s i t.script ∧
      ((∃ line, i = .encodeSend line ∧ line.toNat ≤ 1 ∧ t.txState = .poll ∧ t.rxState = .idle ∧
          t.txBuf.toList = frame line s.backlight (s.lineStore line)) ∨
        (i = .tryReceive ∧ t.txState = .idle ∧ t.rxState = .first) ∨
        (∃ ms, i = .wait ms ∧ portFree t ∧ t.waitMs = ms))

/-- Once started the sequencer never stops and the block is never un-initialised (43_polling_sequencer.md R92,
10_state.md R16). -/
def Obligations.NothingStopsTheSequencer : Prop :=
  ∀ s t : State, step s = .next t →
    (s.seqPhase ≠ .stopped → t.seqPhase ≠ .stopped) ∧ (s.initDone = true → t.initDone = true)

/-- `SEQ_STEP` moves only by the completion of the current command, or by INIT (43_polling_sequencer.md R90, R91): no
outcome, answer or received byte moves it. -/
def Obligations.OnlyCompletionMovesTheSequencer : Prop :=
  ∀ s t : State, step s = .next t → t.seqStep ≠ s.seqStep →
    (portFree s ∧ s.seqPhase = .busy ∧ stepNumber t.seqStep = stepNumber s.seqStep % 8 + 1) ∨
    (∃ p port, s.nextMove.1 = .host p ∧ decodeCommand p = .ok (.init port) ∧ s.initDone = false ∧
      t.seqStep = .step1)

/-- One whole polling cycle left alone (43_polling_sequencer.md R88, R91): it comes back to step 1, having sent
exactly the frame of line 0 and then the frame of line 1 and taken the burst that was waiting. -/
def Obligations.PollingCycleSendsBothLines : Prop :=
  ∀ s : State, s.initDone = true → portFree s → alone s → s.params.seqMode = .auto →
    1 ≤ s.params.txPollMax → s.seqPhase = .issue → s.seqStep = .step1 →
    ∃ (k : Nat) (t : State), Sys2Proof.core.run k s = .next t ∧ 0 < k ∧
      portFree t ∧ t.seqPhase = .issue ∧ t.seqStep = .step1 ∧
      t.txLog = s.txLog ++ frame 0 s.backlight (s.lineStore 0) ++ frame 1 s.backlight (s.lineStore 1) ∧
      t.buttons = (acceptedBurst s.rxq).getD s.buttons ∧ t.rxq = [] ∧ t.waitMs = s.params.tRecvWait ∧
      t.mem = s.mem ∧ t.backlight = s.backlight ∧ t.resp = s.resp

/-! ### The whole machine -/

/-- Line storage changes only by a SET_LINE, SET_LINE_AT or CLEAR_LINE of HOST on an existing line (10_state.md R20,
20_memory.md R30). -/
def Obligations.OnlyHostTextCommandsWriteLines : Prop :=
  ∀ s t : State, step s = .next t → t.mem ≠ s.mem →
    ∃ p i, s.nextMove.1 = .host p ∧ decodeCommand p = .ok i ∧ s.initDone = true ∧
      ((∃ line text, i = .setLine line text ∧ line.toNat ≤ 1) ∨
        (∃ line col text, i = .setLineAt line col text ∧ line.toNat ≤ 1 ∧ 0 ≤ col.toInt ∧ col.toInt < 16) ∨
        (∃ line, i = .clearLine line ∧ line.toNat ≤ 1))

/-- What was sent cannot be undone (20_memory.md R36, which speaks of `TxSend` only): every step leaves `TXLOG` with some
bytes appended, or none. That what was answered to HOST stays, with at most one answer more a step, is the model's record
of `resp` (log 14). -/
def Obligations.SentBytesAreNeverUndone : Prop :=
  ∀ s t : State, step s = .next t →
    (∃ bytes, t.txLog = s.txLog ++ bytes) ∧ (∃ vs, t.resp = s.resp ++ vs ∧ vs.length ≤ 1)

/-- Who writes and reads the two streams (20_memory.md R30): only TX_SEND appends to `TXLOG`, the byte at `TXIDX`; only
RX_FIRST, RX_COLLECT and RX_DRAIN take a byte from `RXQ`, its head. -/
def Obligations.OnlyMicroStepsUseTheStreams : Prop :=
  ∀ s t : State, step s = .next t →
    (t.txLog ≠ s.txLog → s.txState = .send ∧ ∀ h : s.txIdx < 22, t.txLog = s.txLog ++ [s.txBuf[s.txIdx]]) ∧
    (t.rxq.length < s.rxq.length → s.txState = .idle ∧
      (s.rxState = .first ∨ s.rxState = .collect ∨ s.rxState = .drain) ∧ ∃ b, s.rxq = b :: t.rxq)

/-- A `SCRIPT` run that has ended (70_reset_and_hazards.md R122) stays ended, and what is observed of it stays the same,
whatever bytes arrive and however often SEQ has its turn. What counts as a pending command is log 25. -/
def Obligations.EndedRunStaysEnded : Prop :=
  ∀ s : State, RunEnded s → s.inputs ≠ [] ∨ s.later = .repeating [] →
    ∃ t, step s = .next t ∧ RunEnded t ∧ t.observe = s.observe

/-- After INIT the channel is fixed and the baud rate is not set again (10_state.md R17, 60_exceptions.md R103; the record of
the calls is the model's, log 14). That no step changes the parameters of 00_scope.md R7 is the model's choice (log 1). -/
def Obligations.ChannelIsFixedAfterInit : Prop :=
  ∀ s t : State, step s = .next t →
    t.params = s.params ∧ (s.initDone = true → t.port = s.port ∧ t.baudCalls = s.baudCalls)

/-- The counters are invisible (10_state.md R22): with any other counter values, and with the counters absent instead
of present or the reverse, the same step gives the same state but for the counters, unless it is a DIAG_READ. -/
def Obligations.CountersChangeNothingElse : Prop :=
  ∀ (s t : State) (present : Bool) (d : Vector Word 8), step s = .next t →
    (∀ p idx, s.nextMove.1 = .host p → decodeCommand p ≠ .ok (.diagRead idx)) →
    ∃ d', step (withDiag s present d) = .next (withDiag t present d')
end

