-- ==== Sys2Proof/Laws/Memory.lean ====
section
/-! SUPPORT. Line storage: a read after a write, and that every memory operation keeps the one form. -/

namespace Sys2Proof.Machine

@[simp] theorem readByte_nil (a : Nat) : Memory.readByte [] a = 0 := rfl

theorem readByte_cons (k : Nat) (v : Byte) (rest : Memory) (a : Nat) :
    Memory.readByte ((k, v) :: rest) a = if k = a then v else Memory.readByte rest a := rfl

theorem wf_cons {k : Nat} {v : Byte} {rest : Memory} :
    Memory.wf ((k, v) :: rest) = true ↔
      k < storeSize ∧ v ≠ 0 ∧ (∀ c ∈ rest, k < c.1) ∧ Memory.wf rest = true := by
  simp [Memory.wf, List.all_eq_true, and_assoc]

/-- Below every listed address, an address reads 0x00. -/
theorem readByte_below {m : Memory} {a : Nat} (h : ∀ c ∈ m, a < c.1) : m.readByte a = 0 := by
  induction m with
  | nil => rfl
  | cons c rest ih =>
    obtain ⟨k, v⟩ := c
    have hk : a < k := h (k, v) (by simp)
    rw [readByte_cons, if_neg (by omega)]
    exact ih fun c hc => h c (List.mem_cons_of_mem _ hc)

theorem readByte_consByte (a : Nat) (v : Byte) (rest : Memory) (b : Nat) (h : ∀ c ∈ rest, a < c.1) :
    (Memory.consByte a v rest).readByte b = if a = b then v else rest.readByte b := by
  unfold Memory.consByte
  by_cases hv : v = 0
  · subst hv
    by_cases hab : a = b
    · subst hab; simp [readByte_below h]
    · simp [hab]
  · rw [if_neg hv, readByte_cons]

/-- Where a written list may hold an address: where the old one did, or at the written address. -/
theorem mem_writeByte {m : Memory} {a : Nat} {v : Byte} {c : Host.Cell} (h : c ∈ m.writeByte a v) :
    c ∈ m ∨ c.1 = a := by
  induction m with
  | nil =>
    simp only [Memory.writeByte, Memory.consByte] at h
    split at h <;> simp_all
  | cons d rest ih =>
    obtain ⟨k, u⟩ := d
    simp only [Memory.writeByte, Memory.consByte] at h
    split_ifs at h <;> simp only [List.mem_cons] at h ⊢
    · exact .inl h
    · rcases h with rfl | h
      · exact .inr rfl
      · exact .inl h
    · exact .inl (.inr h)
    · rcases h with rfl | h
      · exact .inr rfl
      · exact .inl (.inr h)
    · rcases h with rfl | h
      · exact .inl (.inl rfl)
      · exact (ih h).imp_left .inr

/-- A read after a write: the written byte at its address, the old byte anywhere else. -/
theorem readByte_writeByte {m : Memory} (h : m.wf = true) (a : Nat) (v : Byte) (b : Nat) :
    (m.writeByte a v).readByte b = if a = b then v else m.readByte b := by
  induction m with
  | nil => simp [Memory.writeByte, readByte_consByte]
  | cons c rest ih =>
    obtain ⟨k, u⟩ := c
    obtain ⟨-, -, hk, hr⟩ := wf_cons.1 h
    simp only [Memory.writeByte]
    split_ifs with h1 h2 h3 h4
    · rw [readByte_consByte, if_pos h2]
      intro c hc
      rcases List.mem_cons.1 hc with rfl | hc
      · exact h1
      · exact Nat.lt_trans h1 (hk c hc)
    · rw [readByte_consByte, if_neg h2]
      intro c hc
      rcases List.mem_cons.1 hc with rfl | hc
      · exact h1
      · exact Nat.lt_trans h1 (hk c hc)
    · subst h3; rw [readByte_consByte _ _ _ _ hk, if_pos h4]
    · subst h3; rw [readByte_consByte _ _ _ _ hk, if_neg h4, readByte_cons, if_neg h4]
    · rw [readByte_cons, ih hr, if_pos ‹a = b›, if_neg (by omega)]
    · rw [readByte_cons, ih hr, if_neg ‹¬a = b›, readByte_cons]

/-- Writing one byte inside the store keeps the form. -/
theorem writeByte_wf {m : Memory} (h : m.wf = true) {a : Nat} (ha : a < storeSize) (v : Byte) :
    (m.writeByte a v).wf = true := by
  have cons_wf : ∀ rest : Memory, rest.wf = true → (∀ c ∈ rest, a < c.1) → (Memory.consByte a v rest).wf = true := by
    intro rest hr hall
    unfold Memory.consByte
    split_ifs with hv
    · exact hr
    · exact wf_cons.2 ⟨ha, hv, hall, hr⟩
  induction m with
  | nil => exact cons_wf [] rfl (by simp)
  | cons c rest ih =>
    obtain ⟨k, u⟩ := c
    obtain ⟨hk, hu, hall, hr⟩ := wf_cons.1 h
    simp only [Memory.writeByte]
    split_ifs with h1 h2
    · refine cons_wf _ h fun c hc => ?_
      rcases List.mem_cons.1 hc with rfl | hc
      · exact h1
      · exact Nat.lt_trans h1 (hall c hc)
    · subst h2; exact cons_wf rest hr hall
    · refine wf_cons.2 ⟨hk, hu, fun c hc => ?_, ih hr⟩
      rcases mem_writeByte hc with hc | hc
      · exact hall c hc
      · omega

/-- Writing consecutive bytes inside the store keeps the form. -/
theorem writeRange_wf {m : Memory} (h : m.wf = true) (a : Nat) (bs : List Byte) (ha : a + bs.length ≤ storeSize) :
    (m.writeRange a bs).wf = true := by
  induction bs generalizing m a with
  | nil => exact h
  | cons b bs ih =>
    simp only [List.length_cons] at ha
    exact ih (writeByte_wf h (by omega) b) (a + 1) (by omega)

/-- A read after writing consecutive bytes: the written ones in their span, the old ones outside it. -/
theorem readByte_writeRange {m : Memory} (h : m.wf = true) (a : Nat) (bs : List Byte)
    (ha : a + bs.length ≤ storeSize) (b : Nat) :
    (m.writeRange a bs).readByte b =
      if a ≤ b ∧ b < a + bs.length then bs.getD (b - a) 0 else m.readByte b := by
  induction bs generalizing m a with
  | nil => simp [Memory.writeRange]
  | cons x bs ih =>
    simp only [List.length_cons] at ha
    rw [Memory.writeRange, ih (writeByte_wf h (by omega) x) (a + 1) (by omega), readByte_writeByte h]
    by_cases hab : a = b
    · subst hab; simp
    · by_cases hin : a + 1 ≤ b ∧ b < a + 1 + bs.length
      · have : b - a = (b - (a + 1)) + 1 := by omega
        rw [if_pos hin, if_pos (by simp only [List.length_cons]; omega), this, List.getD_cons_succ]
      · rw [if_neg hin, if_neg hab, if_neg (by simp only [List.length_cons]; omega)]

end Sys2Proof.Machine
end

