-- ==== Sys2Proof/Laws/State.lean ====
section
/-! SUPPORT. One lemma per field per update: what each named operation of Machine/Ops.lean and counting leave of every
field of the state. -/

namespace Sys2Proof.Machine

/-- Counting changes the counters only, and those only with `HAS_DIAG`. -/
theorem bump_eq (s : State) (d : DiagId) : s.bump d = { s with diag := (s.bump d).diag } := by
  unfold State.bump; split <;> rfl

@[simp] theorem writeLine_params (s : State) (l : Byte) (c : Nat) (bs : List Byte) : (s.writeLine l c bs).params = s.params := rfl
@[simp] theorem writeLine_initDone (s : State) (l : Byte) (c : Nat) (bs : List Byte) : (s.writeLine l c bs).initDone = s.initDone := rfl
@[simp] theorem writeLine_port (s : State) (l : Byte) (c : Nat) (bs : List Byte) : (s.writeLine l c bs).port = s.port := rfl
@[simp] theorem writeLine_backlight (s : State) (l : Byte) (c : Nat) (bs : List Byte) : (s.writeLine l c bs).backlight = s.backlight := rfl
@[simp] theorem writeLine_buttons (s : State) (l : Byte) (c : Nat) (bs : List Byte) : (s.writeLine l c bs).buttons = s.buttons := rfl
@[simp] theorem writeLine_mem (s : State) (l : Byte) (c : Nat) (bs : List Byte) :
    (s.writeLine l c bs).mem = s.mem.writeRange (lineAddr l c) bs := rfl
@[simp] theorem writeLine_diag (s : State) (l : Byte) (c : Nat) (bs : List Byte) : (s.writeLine l c bs).diag = s.diag := rfl
@[simp] theorem writeLine_txBuf (s : State) (l : Byte) (c : Nat) (bs : List Byte) : (s.writeLine l c bs).txBuf = s.txBuf := rfl
@[simp] theorem writeLine_txIdx (s : State) (l : Byte) (c : Nat) (bs : List Byte) : (s.writeLine l c bs).txIdx = s.txIdx := rfl
@[simp] theorem writeLine_txPoll (s : State) (l : Byte) (c : Nat) (bs : List Byte) : (s.writeLine l c bs).txPoll = s.txPoll := rfl
@[simp] theorem writeLine_txState (s : State) (l : Byte) (c : Nat) (bs : List Byte) : (s.writeLine l c bs).txState = s.txState := rfl
@[simp] theorem writeLine_rxBuf (s : State) (l : Byte) (c : Nat) (bs : List Byte) : (s.writeLine l c bs).rxBuf = s.rxBuf := rfl
@[simp] theorem writeLine_rxCnt (s : State) (l : Byte) (c : Nat) (bs : List Byte) : (s.writeLine l c bs).rxCnt = s.rxCnt := rfl
@[simp] theorem writeLine_rxState (s : State) (l : Byte) (c : Nat) (bs : List Byte) : (s.writeLine l c bs).rxState = s.rxState := rfl
@[simp] theorem writeLine_seqStep (s : State) (l : Byte) (c : Nat) (bs : List Byte) : (s.writeLine l c bs).seqStep = s.seqStep := rfl
@[simp] theorem writeLine_seqPhase (s : State) (l : Byte) (c : Nat) (bs : List Byte) : (s.writeLine l c bs).seqPhase = s.seqPhase := rfl
@[simp] theorem writeLine_waitMs (s : State) (l : Byte) (c : Nat) (bs : List Byte) : (s.writeLine l c bs).waitMs = s.waitMs := rfl
@[simp] theorem writeLine_rxq (s : State) (l : Byte) (c : Nat) (bs : List Byte) : (s.writeLine l c bs).rxq = s.rxq := rfl
@[simp] theorem writeLine_txLog (s : State) (l : Byte) (c : Nat) (bs : List Byte) : (s.writeLine l c bs).txLog = s.txLog := rfl
@[simp] theorem writeLine_readyAnswers (s : State) (l : Byte) (c : Nat) (bs : List Byte) : (s.writeLine l c bs).readyAnswers = s.readyAnswers := rfl
@[simp] theorem writeLine_readyCalls (s : State) (l : Byte) (c : Nat) (bs : List Byte) : (s.writeLine l c bs).readyCalls = s.readyCalls := rfl
@[simp] theorem writeLine_baudCalls (s : State) (l : Byte) (c : Nat) (bs : List Byte) : (s.writeLine l c bs).baudCalls = s.baudCalls := rfl
@[simp] theorem writeLine_resp (s : State) (l : Byte) (c : Nat) (bs : List Byte) : (s.writeLine l c bs).resp = s.resp := rfl
@[simp] theorem writeLine_script (s : State) (l : Byte) (c : Nat) (bs : List Byte) : (s.writeLine l c bs).script = s.script := rfl
@[simp] theorem writeLine_inputs (s : State) (l : Byte) (c : Nat) (bs : List Byte) : (s.writeLine l c bs).inputs = s.inputs := rfl
@[simp] theorem writeLine_later (s : State) (l : Byte) (c : Nat) (bs : List Byte) : (s.writeLine l c bs).later = s.later := rfl
@[simp] theorem writeLine_drawn (s : State) (l : Byte) (c : Nat) (bs : List Byte) : (s.writeLine l c bs).drawn = s.drawn := rfl

@[simp] theorem rxAppend_params (s : State) (bs : List Byte) : (s.rxAppend bs).params = s.params := rfl
@[simp] theorem rxAppend_initDone (s : State) (bs : List Byte) : (s.rxAppend bs).initDone = s.initDone := rfl
@[simp] theorem rxAppend_port (s : State) (bs : List Byte) : (s.rxAppend bs).port = s.port := rfl
@[simp] theorem rxAppend_backlight (s : State) (bs : List Byte) : (s.rxAppend bs).backlight = s.backlight := rfl
@[simp] theorem rxAppend_buttons (s : State) (bs : List Byte) : (s.rxAppend bs).buttons = s.buttons := rfl
@[simp] theorem rxAppend_mem (s : State) (bs : List Byte) : (s.rxAppend bs).mem = s.mem := rfl
@[simp] theorem rxAppend_diag (s : State) (bs : List Byte) : (s.rxAppend bs).diag = s.diag := rfl
@[simp] theorem rxAppend_txBuf (s : State) (bs : List Byte) : (s.rxAppend bs).txBuf = s.txBuf := rfl
@[simp] theorem rxAppend_txIdx (s : State) (bs : List Byte) : (s.rxAppend bs).txIdx = s.txIdx := rfl
@[simp] theorem rxAppend_txPoll (s : State) (bs : List Byte) : (s.rxAppend bs).txPoll = s.txPoll := rfl
@[simp] theorem rxAppend_txState (s : State) (bs : List Byte) : (s.rxAppend bs).txState = s.txState := rfl
@[simp] theorem rxAppend_rxBuf (s : State) (bs : List Byte) : (s.rxAppend bs).rxBuf = s.rxBuf := rfl
@[simp] theorem rxAppend_rxCnt (s : State) (bs : List Byte) : (s.rxAppend bs).rxCnt = s.rxCnt := rfl
@[simp] theorem rxAppend_rxState (s : State) (bs : List Byte) : (s.rxAppend bs).rxState = s.rxState := rfl
@[simp] theorem rxAppend_seqStep (s : State) (bs : List Byte) : (s.rxAppend bs).seqStep = s.seqStep := rfl
@[simp] theorem rxAppend_seqPhase (s : State) (bs : List Byte) : (s.rxAppend bs).seqPhase = s.seqPhase := rfl
@[simp] theorem rxAppend_waitMs (s : State) (bs : List Byte) : (s.rxAppend bs).waitMs = s.waitMs := rfl
@[simp] theorem rxAppend_rxq (s : State) (bs : List Byte) :
    (s.rxAppend bs).rxq = s.rxq ++ bs := rfl
@[simp] theorem rxAppend_txLog (s : State) (bs : List Byte) : (s.rxAppend bs).txLog = s.txLog := rfl
@[simp] theorem rxAppend_readyAnswers (s : State) (bs : List Byte) : (s.rxAppend bs).readyAnswers = s.readyAnswers := rfl
@[simp] theorem rxAppend_readyCalls (s : State) (bs : List Byte) : (s.rxAppend bs).readyCalls = s.readyCalls := rfl
@[simp] theorem rxAppend_baudCalls (s : State) (bs : List Byte) : (s.rxAppend bs).baudCalls = s.baudCalls := rfl
@[simp] theorem rxAppend_resp (s : State) (bs : List Byte) : (s.rxAppend bs).resp = s.resp := rfl
@[simp] theorem rxAppend_script (s : State) (bs : List Byte) : (s.rxAppend bs).script = s.script := rfl
@[simp] theorem rxAppend_inputs (s : State) (bs : List Byte) : (s.rxAppend bs).inputs = s.inputs := rfl
@[simp] theorem rxAppend_later (s : State) (bs : List Byte) : (s.rxAppend bs).later = s.later := rfl
@[simp] theorem rxAppend_drawn (s : State) (bs : List Byte) : (s.rxAppend bs).drawn = s.drawn := rfl

@[simp] theorem txSend_params (s : State) (b : Byte) : (s.txSend b).params = s.params := rfl
@[simp] theorem txSend_initDone (s : State) (b : Byte) : (s.txSend b).initDone = s.initDone := rfl
@[simp] theorem txSend_port (s : State) (b : Byte) : (s.txSend b).port = s.port := rfl
@[simp] theorem txSend_backlight (s : State) (b : Byte) : (s.txSend b).backlight = s.backlight := rfl
@[simp] theorem txSend_buttons (s : State) (b : Byte) : (s.txSend b).buttons = s.buttons := rfl
@[simp] theorem txSend_mem (s : State) (b : Byte) : (s.txSend b).mem = s.mem := rfl
@[simp] theorem txSend_diag (s : State) (b : Byte) : (s.txSend b).diag = s.diag := rfl
@[simp] theorem txSend_txBuf (s : State) (b : Byte) : (s.txSend b).txBuf = s.txBuf := rfl
@[simp] theorem txSend_txIdx (s : State) (b : Byte) : (s.txSend b).txIdx = s.txIdx := rfl
@[simp] theorem txSend_txPoll (s : State) (b : Byte) : (s.txSend b).txPoll = s.txPoll := rfl
@[simp] theorem txSend_txState (s : State) (b : Byte) : (s.txSend b).txState = s.txState := rfl
@[simp] theorem txSend_rxBuf (s : State) (b : Byte) : (s.txSend b).rxBuf = s.rxBuf := rfl
@[simp] theorem txSend_rxCnt (s : State) (b : Byte) : (s.txSend b).rxCnt = s.rxCnt := rfl
@[simp] theorem txSend_rxState (s : State) (b : Byte) : (s.txSend b).rxState = s.rxState := rfl
@[simp] theorem txSend_seqStep (s : State) (b : Byte) : (s.txSend b).seqStep = s.seqStep := rfl
@[simp] theorem txSend_seqPhase (s : State) (b : Byte) : (s.txSend b).seqPhase = s.seqPhase := rfl
@[simp] theorem txSend_waitMs (s : State) (b : Byte) : (s.txSend b).waitMs = s.waitMs := rfl
@[simp] theorem txSend_rxq (s : State) (b : Byte) : (s.txSend b).rxq = s.rxq := rfl
@[simp] theorem txSend_txLog (s : State) (b : Byte) :
    (s.txSend b).txLog = s.txLog ++ [b] := rfl
@[simp] theorem txSend_readyAnswers (s : State) (b : Byte) : (s.txSend b).readyAnswers = s.readyAnswers := rfl
@[simp] theorem txSend_readyCalls (s : State) (b : Byte) : (s.txSend b).readyCalls = s.readyCalls := rfl
@[simp] theorem txSend_baudCalls (s : State) (b : Byte) : (s.txSend b).baudCalls = s.baudCalls := rfl
@[simp] theorem txSend_resp (s : State) (b : Byte) : (s.txSend b).resp = s.resp := rfl
@[simp] theorem txSend_script (s : State) (b : Byte) : (s.txSend b).script = s.script := rfl
@[simp] theorem txSend_inputs (s : State) (b : Byte) : (s.txSend b).inputs = s.inputs := rfl
@[simp] theorem txSend_later (s : State) (b : Byte) : (s.txSend b).later = s.later := rfl
@[simp] theorem txSend_drawn (s : State) (b : Byte) : (s.txSend b).drawn = s.drawn := rfl

@[simp] theorem readyCalled_params (s : State) : (s.readyCalled).params = s.params := rfl
@[simp] theorem readyCalled_initDone (s : State) : (s.readyCalled).initDone = s.initDone := rfl
@[simp] theorem readyCalled_port (s : State) : (s.readyCalled).port = s.port := rfl
@[simp] theorem readyCalled_backlight (s : State) : (s.readyCalled).backlight = s.backlight := rfl
@[simp] theorem readyCalled_buttons (s : State) : (s.readyCalled).buttons = s.buttons := rfl
@[simp] theorem readyCalled_mem (s : State) : (s.readyCalled).mem = s.mem := rfl
@[simp] theorem readyCalled_diag (s : State) : (s.readyCalled).diag = s.diag := rfl
@[simp] theorem readyCalled_txBuf (s : State) : (s.readyCalled).txBuf = s.txBuf := rfl
@[simp] theorem readyCalled_txIdx (s : State) : (s.readyCalled).txIdx = s.txIdx := rfl
@[simp] theorem readyCalled_txPoll (s : State) : (s.readyCalled).txPoll = s.txPoll := rfl
@[simp] theorem readyCalled_txState (s : State) : (s.readyCalled).txState = s.txState := rfl
@[simp] theorem readyCalled_rxBuf (s : State) : (s.readyCalled).rxBuf = s.rxBuf := rfl
@[simp] theorem readyCalled_rxCnt (s : State) : (s.readyCalled).rxCnt = s.rxCnt := rfl
@[simp] theorem readyCalled_rxState (s : State) : (s.readyCalled).rxState = s.rxState := rfl
@[simp] theorem readyCalled_seqStep (s : State) : (s.readyCalled).seqStep = s.seqStep := rfl
@[simp] theorem readyCalled_seqPhase (s : State) : (s.readyCalled).seqPhase = s.seqPhase := rfl
@[simp] theorem readyCalled_waitMs (s : State) : (s.readyCalled).waitMs = s.waitMs := rfl
@[simp] theorem readyCalled_rxq (s : State) : (s.readyCalled).rxq = s.rxq := rfl
@[simp] theorem readyCalled_txLog (s : State) : (s.readyCalled).txLog = s.txLog := rfl
@[simp] theorem readyCalled_readyAnswers (s : State) :
    (s.readyCalled).readyAnswers = s.readyAnswers.tail := rfl
@[simp] theorem readyCalled_readyCalls (s : State) :
    (s.readyCalled).readyCalls = s.readyCalls + 1 := rfl
@[simp] theorem readyCalled_baudCalls (s : State) : (s.readyCalled).baudCalls = s.baudCalls := rfl
@[simp] theorem readyCalled_resp (s : State) : (s.readyCalled).resp = s.resp := rfl
@[simp] theorem readyCalled_script (s : State) : (s.readyCalled).script = s.script := rfl
@[simp] theorem readyCalled_inputs (s : State) : (s.readyCalled).inputs = s.inputs := rfl
@[simp] theorem readyCalled_later (s : State) : (s.readyCalled).later = s.later := rfl
@[simp] theorem readyCalled_drawn (s : State) : (s.readyCalled).drawn = s.drawn := rfl

@[simp] theorem configureBaud_params (s : State) (rate : Nat) : (s.configureBaud rate).params = s.params := rfl
@[simp] theorem configureBaud_initDone (s : State) (rate : Nat) : (s.configureBaud rate).initDone = s.initDone := rfl
@[simp] theorem configureBaud_port (s : State) (rate : Nat) : (s.configureBaud rate).port = s.port := rfl
@[simp] theorem configureBaud_backlight (s : State) (rate : Nat) : (s.configureBaud rate).backlight = s.backlight := rfl
@[simp] theorem configureBaud_buttons (s : State) (rate : Nat) : (s.configureBaud rate).buttons = s.buttons := rfl
@[simp] theorem configureBaud_mem (s : State) (rate : Nat) : (s.configureBaud rate).mem = s.mem := rfl
@[simp] theorem configureBaud_diag (s : State) (rate : Nat) : (s.configureBaud rate).diag = s.diag := rfl
@[simp] theorem configureBaud_txBuf (s : State) (rate : Nat) : (s.configureBaud rate).txBuf = s.txBuf := rfl
@[simp] theorem configureBaud_txIdx (s : State) (rate : Nat) : (s.configureBaud rate).txIdx = s.txIdx := rfl
@[simp] theorem configureBaud_txPoll (s : State) (rate : Nat) : (s.configureBaud rate).txPoll = s.txPoll := rfl
@[simp] theorem configureBaud_txState (s : State) (rate : Nat) : (s.configureBaud rate).txState = s.txState := rfl
@[simp] theorem configureBaud_rxBuf (s : State) (rate : Nat) : (s.configureBaud rate).rxBuf = s.rxBuf := rfl
@[simp] theorem configureBaud_rxCnt (s : State) (rate : Nat) : (s.configureBaud rate).rxCnt = s.rxCnt := rfl
@[simp] theorem configureBaud_rxState (s : State) (rate : Nat) : (s.configureBaud rate).rxState = s.rxState := rfl
@[simp] theorem configureBaud_seqStep (s : State) (rate : Nat) : (s.configureBaud rate).seqStep = s.seqStep := rfl
@[simp] theorem configureBaud_seqPhase (s : State) (rate : Nat) : (s.configureBaud rate).seqPhase = s.seqPhase := rfl
@[simp] theorem configureBaud_waitMs (s : State) (rate : Nat) : (s.configureBaud rate).waitMs = s.waitMs := rfl
@[simp] theorem configureBaud_rxq (s : State) (rate : Nat) : (s.configureBaud rate).rxq = s.rxq := rfl
@[simp] theorem configureBaud_txLog (s : State) (rate : Nat) : (s.configureBaud rate).txLog = s.txLog := rfl
@[simp] theorem configureBaud_readyAnswers (s : State) (rate : Nat) : (s.configureBaud rate).readyAnswers = s.readyAnswers := rfl
@[simp] theorem configureBaud_readyCalls (s : State) (rate : Nat) : (s.configureBaud rate).readyCalls = s.readyCalls := rfl
@[simp] theorem configureBaud_baudCalls (s : State) (rate : Nat) :
    (s.configureBaud rate).baudCalls = s.baudCalls ++ [(s.port, rate)] := rfl
@[simp] theorem configureBaud_resp (s : State) (rate : Nat) : (s.configureBaud rate).resp = s.resp := rfl
@[simp] theorem configureBaud_script (s : State) (rate : Nat) : (s.configureBaud rate).script = s.script := rfl
@[simp] theorem configureBaud_inputs (s : State) (rate : Nat) : (s.configureBaud rate).inputs = s.inputs := rfl
@[simp] theorem configureBaud_later (s : State) (rate : Nat) : (s.configureBaud rate).later = s.later := rfl
@[simp] theorem configureBaud_drawn (s : State) (rate : Nat) : (s.configureBaud rate).drawn = s.drawn := rfl

@[simp] theorem respond_params (s : State) (v : Word) : (s.respond v).params = s.params := rfl
@[simp] theorem respond_initDone (s : State) (v : Word) : (s.respond v).initDone = s.initDone := rfl
@[simp] theorem respond_port (s : State) (v : Word) : (s.respond v).port = s.port := rfl
@[simp] theorem respond_backlight (s : State) (v : Word) : (s.respond v).backlight = s.backlight := rfl
@[simp] theorem respond_buttons (s : State) (v : Word) : (s.respond v).buttons = s.buttons := rfl
@[simp] theorem respond_mem (s : State) (v : Word) : (s.respond v).mem = s.mem := rfl
@[simp] theorem respond_diag (s : State) (v : Word) : (s.respond v).diag = s.diag := rfl
@[simp] theorem respond_txBuf (s : State) (v : Word) : (s.respond v).txBuf = s.txBuf := rfl
@[simp] theorem respond_txIdx (s : State) (v : Word) : (s.respond v).txIdx = s.txIdx := rfl
@[simp] theorem respond_txPoll (s : State) (v : Word) : (s.respond v).txPoll = s.txPoll := rfl
@[simp] theorem respond_txState (s : State) (v : Word) : (s.respond v).txState = s.txState := rfl
@[simp] theorem respond_rxBuf (s : State) (v : Word) : (s.respond v).rxBuf = s.rxBuf := rfl
@[simp] theorem respond_rxCnt (s : State) (v : Word) : (s.respond v).rxCnt = s.rxCnt := rfl
@[simp] theorem respond_rxState (s : State) (v : Word) : (s.respond v).rxState = s.rxState := rfl
@[simp] theorem respond_seqStep (s : State) (v : Word) : (s.respond v).seqStep = s.seqStep := rfl
@[simp] theorem respond_seqPhase (s : State) (v : Word) : (s.respond v).seqPhase = s.seqPhase := rfl
@[simp] theorem respond_waitMs (s : State) (v : Word) : (s.respond v).waitMs = s.waitMs := rfl
@[simp] theorem respond_rxq (s : State) (v : Word) : (s.respond v).rxq = s.rxq := rfl
@[simp] theorem respond_txLog (s : State) (v : Word) : (s.respond v).txLog = s.txLog := rfl
@[simp] theorem respond_readyAnswers (s : State) (v : Word) : (s.respond v).readyAnswers = s.readyAnswers := rfl
@[simp] theorem respond_readyCalls (s : State) (v : Word) : (s.respond v).readyCalls = s.readyCalls := rfl
@[simp] theorem respond_baudCalls (s : State) (v : Word) : (s.respond v).baudCalls = s.baudCalls := rfl
@[simp] theorem respond_resp (s : State) (v : Word) :
    (s.respond v).resp = s.resp ++ [v] := rfl
@[simp] theorem respond_script (s : State) (v : Word) : (s.respond v).script = s.script := rfl
@[simp] theorem respond_inputs (s : State) (v : Word) : (s.respond v).inputs = s.inputs := rfl
@[simp] theorem respond_later (s : State) (v : Word) : (s.respond v).later = s.later := rfl
@[simp] theorem respond_drawn (s : State) (v : Word) : (s.respond v).drawn = s.drawn := rfl

@[simp] theorem hold_params (s : State) (e : Input) : (s.hold e).params = s.params := rfl
@[simp] theorem hold_initDone (s : State) (e : Input) : (s.hold e).initDone = s.initDone := rfl
@[simp] theorem hold_port (s : State) (e : Input) : (s.hold e).port = s.port := rfl
@[simp] theorem hold_backlight (s : State) (e : Input) : (s.hold e).backlight = s.backlight := rfl
@[simp] theorem hold_buttons (s : State) (e : Input) : (s.hold e).buttons = s.buttons := rfl
@[simp] theorem hold_mem (s : State) (e : Input) : (s.hold e).mem = s.mem := rfl
@[simp] theorem hold_diag (s : State) (e : Input) : (s.hold e).diag = s.diag := rfl
@[simp] theorem hold_txBuf (s : State) (e : Input) : (s.hold e).txBuf = s.txBuf := rfl
@[simp] theorem hold_txIdx (s : State) (e : Input) : (s.hold e).txIdx = s.txIdx := rfl
@[simp] theorem hold_txPoll (s : State) (e : Input) : (s.hold e).txPoll = s.txPoll := rfl
@[simp] theorem hold_txState (s : State) (e : Input) : (s.hold e).txState = s.txState := rfl
@[simp] theorem hold_rxBuf (s : State) (e : Input) : (s.hold e).rxBuf = s.rxBuf := rfl
@[simp] theorem hold_rxCnt (s : State) (e : Input) : (s.hold e).rxCnt = s.rxCnt := rfl
@[simp] theorem hold_rxState (s : State) (e : Input) : (s.hold e).rxState = s.rxState := rfl
@[simp] theorem hold_seqStep (s : State) (e : Input) : (s.hold e).seqStep = s.seqStep := rfl
@[simp] theorem hold_seqPhase (s : State) (e : Input) : (s.hold e).seqPhase = s.seqPhase := rfl
@[simp] theorem hold_waitMs (s : State) (e : Input) : (s.hold e).waitMs = s.waitMs := rfl
@[simp] theorem hold_rxq (s : State) (e : Input) : (s.hold e).rxq = s.rxq := rfl
@[simp] theorem hold_txLog (s : State) (e : Input) : (s.hold e).txLog = s.txLog := rfl
@[simp] theorem hold_readyAnswers (s : State) (e : Input) : (s.hold e).readyAnswers = s.readyAnswers := rfl
@[simp] theorem hold_readyCalls (s : State) (e : Input) : (s.hold e).readyCalls = s.readyCalls := rfl
@[simp] theorem hold_baudCalls (s : State) (e : Input) : (s.hold e).baudCalls = s.baudCalls := rfl
@[simp] theorem hold_resp (s : State) (e : Input) : (s.hold e).resp = s.resp := rfl
@[simp] theorem hold_script (s : State) (e : Input) : (s.hold e).script = s.script := rfl
@[simp] theorem hold_inputs (s : State) (e : Input) :
    (s.hold e).inputs = e :: s.inputs := rfl
@[simp] theorem hold_later (s : State) (e : Input) : (s.hold e).later = s.later := rfl
@[simp] theorem hold_drawn (s : State) (e : Input) : (s.hold e).drawn = s.drawn := rfl

@[simp] theorem bump_params (s : State) (d : DiagId) : (s.bump d).params = s.params := by rw [bump_eq]
@[simp] theorem bump_initDone (s : State) (d : DiagId) : (s.bump d).initDone = s.initDone := by rw [bump_eq]
@[simp] theorem bump_port (s : State) (d : DiagId) : (s.bump d).port = s.port := by rw [bump_eq]
@[simp] theorem bump_backlight (s : State) (d : DiagId) : (s.bump d).backlight = s.backlight := by rw [bump_eq]
@[simp] theorem bump_buttons (s : State) (d : DiagId) : (s.bump d).buttons = s.buttons := by rw [bump_eq]
@[simp] theorem bump_mem (s : State) (d : DiagId) : (s.bump d).mem = s.mem := by rw [bump_eq]
@[simp] theorem bump_txBuf (s : State) (d : DiagId) : (s.bump d).txBuf = s.txBuf := by rw [bump_eq]
@[simp] theorem bump_txIdx (s : State) (d : DiagId) : (s.bump d).txIdx = s.txIdx := by rw [bump_eq]
@[simp] theorem bump_txPoll (s : State) (d : DiagId) : (s.bump d).txPoll = s.txPoll := by rw [bump_eq]
@[simp] theorem bump_txState (s : State) (d : DiagId) : (s.bump d).txState = s.txState := by rw [bump_eq]
@[simp] theorem bump_rxBuf (s : State) (d : DiagId) : (s.bump d).rxBuf = s.rxBuf := by rw [bump_eq]
@[simp] theorem bump_rxCnt (s : State) (d : DiagId) : (s.bump d).rxCnt = s.rxCnt := by rw [bump_eq]
@[simp] theorem bump_rxState (s : State) (d : DiagId) : (s.bump d).rxState = s.rxState := by rw [bump_eq]
@[simp] theorem bump_seqStep (s : State) (d : DiagId) : (s.bump d).seqStep = s.seqStep := by rw [bump_eq]
@[simp] theorem bump_seqPhase (s : State) (d : DiagId) : (s.bump d).seqPhase = s.seqPhase := by rw [bump_eq]
@[simp] theorem bump_waitMs (s : State) (d : DiagId) : (s.bump d).waitMs = s.waitMs := by rw [bump_eq]
@[simp] theorem bump_rxq (s : State) (d : DiagId) : (s.bump d).rxq = s.rxq := by rw [bump_eq]
@[simp] theorem bump_txLog (s : State) (d : DiagId) : (s.bump d).txLog = s.txLog := by rw [bump_eq]
@[simp] theorem bump_readyAnswers (s : State) (d : DiagId) : (s.bump d).readyAnswers = s.readyAnswers := by rw [bump_eq]
@[simp] theorem bump_readyCalls (s : State) (d : DiagId) : (s.bump d).readyCalls = s.readyCalls := by rw [bump_eq]
@[simp] theorem bump_baudCalls (s : State) (d : DiagId) : (s.bump d).baudCalls = s.baudCalls := by rw [bump_eq]
@[simp] theorem bump_resp (s : State) (d : DiagId) : (s.bump d).resp = s.resp := by rw [bump_eq]
@[simp] theorem bump_script (s : State) (d : DiagId) : (s.bump d).script = s.script := by rw [bump_eq]
@[simp] theorem bump_inputs (s : State) (d : DiagId) : (s.bump d).inputs = s.inputs := by rw [bump_eq]
@[simp] theorem bump_later (s : State) (d : DiagId) : (s.bump d).later = s.later := by rw [bump_eq]
@[simp] theorem bump_drawn (s : State) (d : DiagId) : (s.bump d).drawn = s.drawn := by rw [bump_eq]

/-- Without the counters, counting changes nothing (10_state.md R22). -/
theorem bump_absent {s : State} (h : s.params.hasDiag = false) (d : DiagId) : s.bump d = s := by
  simp [State.bump, h]

/-- With the counters, counting adds one to its own counter, wrapping, and to no other (10_state.md R22). -/
theorem bump_present {s : State} (h : s.params.hasDiag = true) (d : DiagId) (i : Fin 8) :
    (s.bump d).diag[i] = if i = diagIndex d then s.diag[i] + 1 else s.diag[i] := by
  simp only [State.bump, h, if_true]
  by_cases hi : i = diagIndex d
  · subst hi; simp
  · have : (diagIndex d).val ≠ i.val := fun e => hi (Fin.ext e.symm)
    simp [hi, this]

end Sys2Proof.Machine
end

