-- ==== Sys2Proof/Laws/Ops.lean ====
section
/-! SUPPORT. One lemma per shared operation that says what it can do: when a guard lets an instruction through, what
a delivered command can end in, what SEQ's turn and a step can be, and what no micro-step touches. -/

namespace Sys2Proof.Machine

theorem requireInit_next {s t : State} {k : State → Result} (h : requireInit s k = .next t) :
    s.initDone = true ∧ k s = .next t := by
  unfold requireInit at h
  split at h
  · exact ⟨‹_›, h⟩
  · cases h

theorem requireInit_of_done {s : State} (h : s.initDone = true) (k : State → Result) : requireInit s k = k s := by
  simp [requireInit, h]

theorem requireInit_before {s : State} (h : s.initDone = false) (k : State → Result) :
    requireInit s k = .refused .notInitialised := by
  simp [requireInit, h]

theorem portBusy_false_iff (s : State) : s.portBusy = false ↔ s.txState = .idle ∧ s.rxState = .idle := by
  simp [State.portBusy]

theorem whenPortFree_next {e : Input} {s t : State} {k : State → Result} (h : whenPortFree e s k = .next t) :
    (s.portBusy = true ∧ t = microStep (s.hold e)) ∨ (s.portBusy = false ∧ k s = .next t) := by
  unfold whenPortFree at h
  split at h
  · injection h with h; exact .inl ⟨‹_›, h.symm⟩
  · exact .inr ⟨by simpa using ‹¬s.portBusy = true›, h⟩

theorem whenPortFree_of_free {s : State} (h : s.portBusy = false) (e : Input) (k : State → Result) :
    whenPortFree e s k = k s := by
  simp [whenPortFree, h]

/-- A command of the sequencer port that answers a next state waited for the port, or was taken. -/
theorem onSequencerPort_next {i : Instr} {s t : State} {k : State → Result}
    (h : onSequencerPort i s k = .next t) :
    s.initDone = true ∧
      ((s.portBusy = true ∧ t = microStep (s.hold (.sequencer (encodePacket i)))) ∨
        (s.portBusy = false ∧ k s = .next t)) := by
  obtain ⟨hi, h⟩ := requireInit_next h
  exact ⟨hi, whenPortFree_next h⟩

theorem onSequencerPort_of_free {s : State} (hi : s.initDone = true) (h : s.portBusy = false) (i : Instr)
    (k : State → Result) : onSequencerPort i s k = k s := by
  rw [onSequencerPort, requireInit_of_done hi, whenPortFree_of_free h]

/-- A delivered command answers a next state only if it decodes, belongs to the port, and its meaning answers it. -/
theorem deliver_next {port : Port} {p : Packet} {s t : State} (h : deliver port p s = .next t) :
    ∃ i, decodeCommand p = .ok i ∧ absentCommand s.params i = false ∧ i.port = port ∧ exec i s = .next t := by
  unfold deliver at h
  split at h
  · cases h
  · split at h
    · cases h
    · split at h
      · cases h
      · exact ⟨_, ‹_›, by simpa using ‹¬absentCommand _ _ = true›, by simpa using ‹¬_ ≠ port›, h⟩

theorem markBusy_next {r : Result} {t : State} (h : markBusy r = .next t) :
    ∃ s', r = .next s' ∧ t = { s' with seqPhase := .busy } := by
  cases r with
  | next s' => injection h with h; exact ⟨s', rfl, h.symm⟩
  | fault f => cases f
  | refused r => cases h

/-- SEQ's turn is a micro-step of the command in progress, nothing while stopped, an advance, or an issue. -/
theorem seqTurn_next {s t : State} (h : seqTurn s = .next t) :
    (s.portBusy = true ∧ t = microStep s) ∨
    (s.portBusy = false ∧ s.seqPhase = .stopped ∧ t = s) ∨
    (s.portBusy = false ∧ s.seqPhase = .busy ∧ t = seqAdvance s) ∨
    (s.portBusy = false ∧ s.seqPhase = .issue ∧ seqIssue s = .next t) := by
  unfold seqTurn at h
  split at h
  · injection h with h; exact .inl ⟨‹_›, h.symm⟩
  · have hb : s.portBusy = false := by simpa using ‹¬s.portBusy = true›
    split at h
    · injection h with h; exact .inr (.inl ⟨hb, ‹_›, h.symm⟩)
    · injection h with h; exact .inr (.inr (.inl ⟨hb, ‹_›, h.symm⟩))
    · exact .inr (.inr (.inr ⟨hb, ‹_›, h⟩))

/-- `p` is the command SEQ issues next, and `left` is the script after it (43_polling_sequencer.md R89, R94). -/
def NextIssue (s : State) (p : Packet) (left : List Packet) : Prop :=
  (s.params.seqMode = .auto ∧ p = encodePacket (cycleCommand s.params s.seqStep) ∧ left = s.script) ∨
  (s.params.seqMode = .script ∧ s.script = p :: left)

theorem nextIssue_some {s t : State} {p : Packet} (h : s.nextIssue = some (p, t)) :
    t = { s with script := t.script } ∧ NextIssue s p t.script := by
  unfold State.nextIssue at h
  split at h
  · cases h; exact ⟨rfl, .inl ⟨‹_›, rfl, rfl⟩⟩
  · split at h
    · cases h
    · cases h; exact ⟨rfl, .inr ⟨‹_›, ‹_›⟩⟩

theorem nextIssue_of {s : State} {p : Packet} {left : List Packet} (h : NextIssue s p left) :
    s.nextIssue = some (p, { s with script := left }) := by
  obtain ⟨hm, rfl, rfl⟩ | ⟨hm, hs⟩ := h
  · simp [State.nextIssue, hm]
  · simp [State.nextIssue, hm, hs]

theorem issueNow_some_iff (s t : State) (p : Packet) :
    s.issueNow = some (p, t) ↔ s.portBusy = false ∧ s.seqPhase = .issue ∧ s.nextIssue = some (p, t) := by
  unfold State.issueNow
  cases s.portBusy <;> cases s.seqPhase <;> simp

/-- An issue answers a next state by a command it delivered, or does nothing at the end of a script. -/
theorem seqIssue_next {s t : State} (h : seqIssue s = .next t) :
    (s.nextIssue = none ∧ t = s) ∨
    (∃ p left s', NextIssue s p left ∧ deliver .sequencer p { s with script := left } = .next s' ∧
      t = { s' with seqPhase := .busy }) := by
  unfold seqIssue at h
  split at h
  · injection h with h; exact .inl ⟨‹_›, h.symm⟩
  · rename_i p u hn
    obtain ⟨hu, hi⟩ := nextIssue_some hn
    obtain ⟨s', h1, h2⟩ := markBusy_next h
    exact .inr ⟨p, u.script, s', hi, hu ▸ h1, h2⟩

theorem seqIssue_of {s : State} {p : Packet} {left : List Packet} (h : NextIssue s p left) :
    seqIssue s = markBusy (deliver .sequencer p { s with script := left }) := by
  rw [seqIssue, nextIssue_of h]

/-- A command presented on the sequencer port that is not refused gives SEQ its turn; it stays pending or is what SEQ
issues. -/
theorem offer_next {s t : State} {p : Packet} (h : offer p s = .next t) :
    ∃ l, seqTurn { s with inputs := l } = .next t := by
  unfold offer at h
  split at h
  · split at h
    · exact ⟨s.inputs, h⟩
    · exact ⟨_, h⟩
  · cases h
  · cases h

/-- An advance goes to the next step of the cycle, or to the next command of the script; after the last it is no step. -/
theorem seqAdvance_cases (s : State) :
    (s.params.seqMode = .auto ∧ seqAdvance s = { s with seqStep := nextStep s.seqStep, seqPhase := .issue }) ∨
    (s.params.seqMode = .script ∧ s.script = [] ∧ seqAdvance s = s) ∨
    (s.params.seqMode = .script ∧ s.script ≠ [] ∧ seqAdvance s = { s with seqPhase := .issue }) := by
  cases hm : s.params.seqMode
  · exact .inl ⟨rfl, by simp [seqAdvance, hm]⟩
  · by_cases hs : s.script = []
    · exact .inr (.inl ⟨rfl, hs, by simp [seqAdvance, hm, hs]⟩)
    · exact .inr (.inr ⟨rfl, hs, by simp [seqAdvance, hm, hs]⟩)

theorem rxFirstStep_none {s : State} (h : s.rxq = []) : rxFirstStep s = { s with rxState := .idle } := by
  simp [rxFirstStep, State.rxRead, h]

theorem rxFirstStep_byte {s : State} {b : Byte} {rest : List Byte} (h : s.rxq = b :: rest) :
    rxFirstStep s =
      { s with rxq := rest, rxBuf := s.rxBuf.setIfInBounds 0 b, rxCnt := 1, rxState := .collect } := by
  simp [rxFirstStep, State.rxRead, h]

theorem rxCollectStep_full {s : State} (h : s.rxCnt = 17) : rxCollectStep s = { s with rxState := .check } := by
  simp [rxCollectStep, h]

theorem rxCollectStep_none {s : State} (h : s.rxq = []) : rxCollectStep s = { s with rxState := .check } := by
  simp [rxCollectStep, State.rxRead, h]

theorem rxCollectStep_byte {s : State} {b : Byte} {rest : List Byte} (hc : s.rxCnt ≠ 17) (h : s.rxq = b :: rest) :
    rxCollectStep s =
      { s with rxq := rest, rxBuf := s.rxBuf.setIfInBounds s.rxCnt b, rxCnt := s.rxCnt + 1 } := by
  simp [rxCollectStep, State.rxRead, h, hc]

theorem rxDrainStep_none {s : State} (h : s.rxq = []) : rxDrainStep s = { s with rxState := .idle } := by
  simp [rxDrainStep, State.rxRead, h]

theorem rxDrainStep_byte {s : State} {b : Byte} {rest : List Byte} (h : s.rxq = b :: rest) :
    rxDrainStep s = State.bump { s with rxq := rest } .rxDrained := by
  simp [rxDrainStep, State.rxRead, h]

/-- RX_CHECK touches the buttons, the counters and its own state only. -/
theorem rxCheckStep_eq (s : State) :
    rxCheckStep s =
      { s with
        buttons := if s.rxAccept then s.rxBuf[4] else s.buttons,
        diag := (rxCheckStep s).diag,
        rxState := .drain } := by
  by_cases ha : s.rxAccept = true <;> by_cases hc : s.rxCnt = 6 <;> by_cases hh : s.rxHeaderOk = true <;>
    simp [rxCheckStep, ha, hc, hh]

/-- A TX_POLL that is not the last and sees no ready leaves the encoder polling; any other goes on to send. -/
theorem txPollStep_eq (s : State) :
    txPollStep s =
      { s with
        readyAnswers := s.readyAnswers.tail, readyCalls := s.readyCalls + 1, txPoll := s.txPoll + 1,
        diag := (txPollStep s).diag,
        txState := if s.readyAnswer = true ∨ s.txPoll + 1 = s.params.txPollMax then .send else s.txState } := by
  by_cases hr : s.readyAnswer = true <;> by_cases hp : s.txPoll + 1 = s.params.txPollMax <;>
    simp [txPollStep, hr, hp]

/-- A TX_SEND sends the byte at `TXIDX` and moves on, to the next byte or to idle. -/
theorem txSendStep_eq (s : State) :
    txSendStep s =
      { s with
        txLog := s.txLog ++ [(s.txBuf[s.txIdx]?).getD 0], txIdx := s.txIdx + 1, txPoll := 0,
        diag := (txSendStep s).diag,
        txState := if s.txIdx + 1 = 22 then .idle else .poll } := by
  by_cases h : s.txIdx + 1 = 22 <;> simp [State.ext_iff, txSendStep, h]

/-- What no micro-step of a sequencer-port command touches. -/
theorem microStep_frame (s : State) :
    microStep s = { s with
      buttons := (microStep s).buttons, diag := (microStep s).diag, txIdx := (microStep s).txIdx,
      txPoll := (microStep s).txPoll, txState := (microStep s).txState, rxBuf := (microStep s).rxBuf,
      rxCnt := (microStep s).rxCnt, rxState := (microStep s).rxState, rxq := (microStep s).rxq,
      txLog := (microStep s).txLog, readyAnswers := (microStep s).readyAnswers,
      readyCalls := (microStep s).readyCalls } := by
  unfold microStep
  split
  · rw [txPollStep_eq]
  · rw [txSendStep_eq]
  · split
    · rfl
    · cases hq : s.rxq with
      | nil => rw [rxFirstStep_none hq]
      | cons b rest => rw [rxFirstStep_byte hq]
    · by_cases hc : s.rxCnt = 17
      · rw [rxCollectStep_full hc]
      · cases hq : s.rxq with
        | nil => rw [rxCollectStep_none hq]
        | cons b rest => rw [rxCollectStep_byte hc hq]
    · rw [rxCheckStep_eq]
    · cases hq : s.rxq with
      | nil => rw [rxDrainStep_none hq]
      | cons b rest => rw [rxDrainStep_byte hq, bump_eq]

/-- Taking the next move changes the moves to come only. -/
theorem nextMove_eq (s : State) :
    s.nextMove.2 = { s with inputs := s.nextMove.2.inputs, drawn := s.nextMove.2.drawn } := by
  unfold State.nextMove
  split
  · rfl
  · split <;> rfl

theorem nextMove_listed {s : State} {e : Input} {rest : List Input} (h : s.inputs = e :: rest) :
    s.nextMove = (e, { s with inputs := rest }) := by
  simp [State.nextMove, h]

theorem nextMove_free {s : State} (h : s.inputs = []) (hl : s.later = .free) :
    s.nextMove = (Config.moveDraw s.drawn, { s with drawn := s.drawn + 1 }) := by
  simp [State.nextMove, h, hl]

theorem nextMove_alone {s : State} (h : s.inputs = []) (hl : s.later = .repeating []) : s.nextMove = (.seqTurn, s) := by
  simp [State.nextMove, h, hl]

theorem nextMove_repeating {s : State} {e : Input} {rest : List Input} (h : s.inputs = [])
    (hl : s.later = .repeating (e :: rest)) : s.nextMove = (e, { s with inputs := rest }) := by
  simp [State.nextMove, h, hl]

end Sys2Proof.Machine
end

