-- ==== Sys2Proof/Laws/MicroStep.lean ====
section
/-! SUPPORT. A micro-step of the command in progress: it neither reads nor changes the moves still to come, and its
cases, each with the whole next state. -/

namespace Sys2Proof.Machine

theorem rxFirstStep_moves (s : State) (l : List Input) (n : Nat) :
    rxFirstStep { s with inputs := l, drawn := n } = { rxFirstStep s with inputs := l, drawn := n } := by
  rcases s; rename_i rxq _ _ _ _ _ _ _ _ _; cases rxq <;> rfl

theorem rxCollectStep_moves (s : State) (l : List Input) (n : Nat) :
    rxCollectStep { s with inputs := l, drawn := n } = { rxCollectStep s with inputs := l, drawn := n } := by
  by_cases h : s.rxCnt = 17
  · rw [rxCollectStep_full h, rxCollectStep_full (s := { s with inputs := l, drawn := n }) h]
  · rcases s; rename_i rxq _ _ _ _ _ _ _ _ _; simp only at h; cases rxq <;> simp [rxCollectStep, State.rxRead, h]

theorem rxCheckStep_moves (s : State) (l : List Input) (n : Nat) :
    rxCheckStep { s with inputs := l, drawn := n } = { rxCheckStep s with inputs := l, drawn := n } := by
  simp only [rxCheckStep, State.rxAccept, State.rxHeaderOk, State.rxSumOk, State.bump]
  (repeat' split) <;> rfl

theorem rxDrainStep_moves (s : State) (l : List Input) (n : Nat) :
    rxDrainStep { s with inputs := l, drawn := n } = { rxDrainStep s with inputs := l, drawn := n } := by
  rcases s; rename_i rxq _ _ _ _ _ _ _ _ _; cases rxq
  · rfl
  · simp only [rxDrainStep, State.rxRead, State.bump]; split <;> rfl

theorem txPollStep_moves (s : State) (l : List Input) (n : Nat) :
    txPollStep { s with inputs := l, drawn := n } = { txPollStep s with inputs := l, drawn := n } := by
  have : State.readyAnswer { s with inputs := l, drawn := n } = s.readyAnswer := rfl
  by_cases hr : s.readyAnswer = true <;> by_cases hp : s.txPoll + 1 = s.params.txPollMax <;>
    by_cases hd : s.params.hasDiag = true <;>
    simp [txPollStep, this, State.bump, State.readyCalled, hr, hp, hd]

theorem txSendStep_moves (s : State) (l : List Input) (n : Nat) :
    txSendStep { s with inputs := l, drawn := n } = { txSendStep s with inputs := l, drawn := n } := by
  by_cases hp : s.txIdx + 1 = 22 <;> by_cases hd : s.params.hasDiag = true <;>
    simp [txSendStep, State.bump, State.txSend, hp, hd]

theorem microStep_moves (s : State) (l : List Input) (n : Nat) :
    microStep { s with inputs := l, drawn := n } = { microStep s with inputs := l, drawn := n } := by
  have h1 := rxFirstStep_moves s l n
  have h2 := rxCollectStep_moves s l n
  have h3 := rxCheckStep_moves s l n
  have h4 := rxDrainStep_moves s l n
  have h5 := txPollStep_moves s l n
  have h6 := txSendStep_moves s l n
  have e1 : ({ s with inputs := l, drawn := n } : State).txState = s.txState := rfl
  have e2 : ({ s with inputs := l, drawn := n } : State).rxState = s.rxState := rfl
  unfold microStep
  rw [e1, e2]
  split
  · exact h5
  · exact h6
  · split
    · rfl
    · exact h1
    · exact h2
    · exact h3
    · exact h4

/-- The command in progress goes on and the move offered stays pending. -/
theorem microStep_hold (s : State) (e : Input) :
    microStep (s.hold e) = { microStep s with inputs := e :: s.inputs } := by
  have hd : (microStep s).drawn = s.drawn := by rw [microStep_frame s]
  rw [show s.hold e = { s with inputs := e :: s.inputs, drawn := s.drawn } from rfl, microStep_moves, ← hd]

/-- Everything a micro-step of the command in progress does; `d` stands for the counters after it. -/
inductive MicroCase (s : State) : State → Prop where
  | pollAgain (ht : s.txState = .poll) (hm : s.txPoll + 1 ≠ s.params.txPollMax) : MicroCase s
      { s with readyAnswers := s.readyAnswers.tail, readyCalls := s.readyCalls + 1, txPoll := s.txPoll + 1 }
  | pollSend (d : Vector Word 8) (ht : s.txState = .poll)
      (hr : s.readyAnswer = true ∨ s.txPoll + 1 = s.params.txPollMax) : MicroCase s
      { s with
        readyAnswers := s.readyAnswers.tail, readyCalls := s.readyCalls + 1, txPoll := s.txPoll + 1, diag := d,
        txState := .send }
  | sendMore (ht : s.txState = .send) (hi : s.txIdx + 1 ≠ 22) : MicroCase s
      { s with
        txLog := s.txLog ++ [(s.txBuf[s.txIdx]?).getD 0], txIdx := s.txIdx + 1, txPoll := 0, txState := .poll }
  | sendLast (d : Vector Word 8) (ht : s.txState = .send) (hi : s.txIdx + 1 = 22) : MicroCase s
      { s with
        txLog := s.txLog ++ [(s.txBuf[s.txIdx]?).getD 0], txIdx := s.txIdx + 1, txPoll := 0, diag := d,
        txState := .idle }
  | firstNone (ht : s.txState = .idle) (hr : s.rxState = .first) (hq : s.rxq = []) : MicroCase s
      { s with rxState := .idle }
  | firstByte (b : Byte) (rest : List Byte) (ht : s.txState = .idle) (hr : s.rxState = .first)
      (hq : s.rxq = b :: rest) : MicroCase s
      { s with rxq := rest, rxBuf := s.rxBuf.setIfInBounds 0 b, rxCnt := 1, rxState := .collect }
  | collectEnd (ht : s.txState = .idle) (hr : s.rxState = .collect) (hq : s.rxCnt = 17 ∨ s.rxq = []) : MicroCase s
      { s with rxState := .check }
  | collectByte (b : Byte) (rest : List Byte) (ht : s.txState = .idle) (hr : s.rxState = .collect)
      (hc : s.rxCnt ≠ 17) (hq : s.rxq = b :: rest) : MicroCase s
      { s with rxq := rest, rxBuf := s.rxBuf.setIfInBounds s.rxCnt b, rxCnt := s.rxCnt + 1 }
  | check (d : Vector Word 8) (ht : s.txState = .idle) (hr : s.rxState = .check) : MicroCase s
      { s with buttons := if s.rxAccept then s.rxBuf[4] else s.buttons, diag := d, rxState := .drain }
  | drainNone (ht : s.txState = .idle) (hr : s.rxState = .drain) (hq : s.rxq = []) : MicroCase s
      { s with rxState := .idle }
  | drainByte (d : Vector Word 8) (b : Byte) (rest : List Byte) (ht : s.txState = .idle) (hr : s.rxState = .drain)
      (hq : s.rxq = b :: rest) : MicroCase s { s with rxq := rest, diag := d }

theorem microStep_case {s : State} (hb : s.portBusy = true) : MicroCase s (microStep s) := by
  unfold microStep
  split
  · rename_i ht
    by_cases hr : s.readyAnswer = true
    · have := MicroCase.pollSend s.diag ht (.inl hr)
      simpa [txPollStep, State.readyCalled, hr] using this
    · by_cases hm : s.txPoll + 1 = s.params.txPollMax
      · have := MicroCase.pollSend (txPollStep s).diag ht (.inr hm)
        rw [txPollStep_eq]; simpa [hm] using this
      · have := MicroCase.pollAgain ht hm
        simpa [txPollStep, State.readyCalled, hr, hm] using this
  · rename_i ht
    rw [txSendStep_eq]
    by_cases hi : s.txIdx + 1 = 22
    · have := MicroCase.sendLast (txSendStep s).diag ht hi
      simpa [hi] using this
    · have := MicroCase.sendMore ht hi
      simpa [txSendStep, State.txSend, hi] using this
  · rename_i ht
    split
    · exact absurd hb (by simp [(portBusy_false_iff s).2 ⟨ht, ‹_›⟩])
    · rename_i hr
      cases hq : s.rxq with
      | nil => rw [rxFirstStep_none hq]; exact .firstNone ht hr hq
      | cons b rest => rw [rxFirstStep_byte hq]; exact .firstByte b rest ht hr hq
    · rename_i hr
      by_cases hc : s.rxCnt = 17
      · rw [rxCollectStep_full hc]; exact .collectEnd ht hr (.inl hc)
      · cases hq : s.rxq with
        | nil => rw [rxCollectStep_none hq]; exact .collectEnd ht hr (.inr hq)
        | cons b rest => rw [rxCollectStep_byte hc hq]; exact .collectByte b rest ht hr hc hq
    · rename_i hr
      rw [rxCheckStep_eq]; exact .check _ ht hr
    · rename_i hr
      cases hq : s.rxq with
      | nil => rw [rxDrainStep_none hq]; exact .drainNone ht hr hq
      | cons b rest => rw [rxDrainStep_byte hq, bump_eq]; exact .drainByte _ b rest ht hr hq

end Sys2Proof.Machine
end

