-- ==== Sys2Proof/Laws/Operands.lean ====
section
/-! SUPPORT. Lengths and entries of the texts that SET_LINE, SET_LINE_AT and the frame are built from. -/

namespace Sys2Proof.Machine

theorem textLen_le (t : List Byte) : textLen t ≤ t.length := by
  induction t with
  | nil => exact Nat.le_refl _
  | cons b bs ih =>
    simp only [textLen, List.length_cons]
    split <;> omega

/-- No byte before the length of a text is 0x00 (30_encoding.md R55). -/
theorem getD_ne_nul_of_lt_textLen {t : List Byte} {k : Nat} (h : k < textLen t) : t.getD k 0 ≠ nulByte := by
  induction t generalizing k with
  | nil => simp [textLen] at h
  | cons b bs ih =>
    simp only [textLen] at h
    split at h
    · omega
    · cases k with
      | zero => simpa using ‹¬b = nulByte›
      | succ k => simpa using ih (k := k) (by omega)

theorem length_setLineText (t : List Byte) : (setLineText t).length = min (textLen t) 16 := by
  have := textLen_le t
  simp [setLineText]; omega

@[simp] theorem length_setLineBytes (t : List Byte) : (setLineBytes t).length = 17 := by
  have := length_setLineText t
  simp [setLineBytes]; omega

/-- What SET_LINE puts in each column (40_line_api.md R63). -/
theorem getD_setLineBytes (t : List Byte) (c : Nat) :
    (setLineBytes t).getD c 0 = if c < min (textLen t) 16 then t.getD c 0 else 0 := by
  have hl := length_setLineText t
  by_cases h : c < min (textLen t) 16
  · rw [if_pos h, setLineBytes, List.getD_append _ _ _ _ (by omega), setLineText, List.getD_eq_getElem?_getD,
      List.getElem?_take, if_pos (by simpa using h), List.getD_eq_getElem?_getD]
  · rw [if_neg h, setLineBytes, List.getD_append_right _ _ _ _ (by omega)]
    simp [List.getD_eq_getElem?_getD, List.getElem?_replicate]; split <;> rfl

theorem length_setLineAtText (c : Nat) (t : List Byte) :
    (setLineAtText c t).length = min (textLen t) (16 - c) := by
  have := textLen_le t
  simp [setLineAtText]; omega

/-- SET_LINE_AT never writes past column 15 (40_line_api.md R64). -/
theorem length_setLineAtBytes (tail : SetAtTail) {c : Nat} (t : List Byte) :
    (setLineAtBytes tail c t).length =
      match tail with
      | .keep => min (textLen t) (16 - c)
      | .zeroFill => 16 - c := by
  have := length_setLineAtText c t
  cases tail <;> simp [setLineAtBytes] <;> omega

@[simp] theorem length_text16 (L : List Byte) : (text16 L).length = 16 := by simp [text16]

theorem getD_text16 (L : List Byte) {k : Nat} (hk : k < 16) : (text16 L).getD k 0 = textByte L k := by
  simp [text16, List.getD_eq_getElem?_getD, hk]

@[simp] theorem length_frameOutBytes (sel : Byte) (t : List Byte) :
    (frameOutBytes sel t).length = t.length + 6 := by
  simp [frameOutBytes]

@[simp] theorem length_frame (l : Byte) (bl : Bool) (L : List Byte) : (frame l bl L).length = 22 := by
  simp [frame]

/-- `TXBUF` holds exactly the bytes put into it, when they are 22. -/
theorem toList_toTxBuf {bs : List Byte} (h : bs.length = 22) : (toTxBuf bs).toList = bs := by
  apply List.ext_getElem (by simp [h])
  intro i h1 h2
  simp [toTxBuf, List.getD_eq_getElem?_getD, h2]

theorem sum8_append (a b : List Byte) : sum8 (a ++ b) = sum8 a + sum8 b := by
  induction a with
  | nil => simp [sum8]
  | cons x xs ih => simp [sum8, ih, BitVec.add_assoc]

end Sys2Proof.Machine
end

