-- ==== Sys2Proof/Laws/PerInstr.lean ====
section
/-! SUPPORT. Per instruction: its encoded form matches its own row of the opcode table (30_encoding.md R56, R49), and
lies on the port or wire the table gives it. -/

namespace Sys2Proof.Laws.FitsRow

/-- The `match` column of R56. -/
def rowMatch : Instr → Word
  | .init _ => 0x10000000
  | .setLine _ _ => 0x20000000
  | .setLineAt _ _ _ => 0x30000000
  | .clearLine _ => 0x40000000
  | .setBacklight _ => 0x50000000
  | .getButtons => 0x60000000
  | .encodeSend _ => 0x70000000
  | .tryReceive => 0x80000000
  | .wait _ => 0x90000000
  | .diagRead _ => 0xA0000000
  | .frameOut _ _ _ => 0
  | .frameIn _ _ _ => 0

/-- The `mask` column of R56. -/
def rowMask : Instr → Word
  | .init _ => 0xFFFFFF00
  | .setLine _ _ => 0xFF00FFFF
  | .setLineAt _ _ _ => 0xFF0000FF
  | .clearLine _ => 0xFF00FFFF
  | .setBacklight _ => 0xFFFFFFFE
  | .getButtons => 0xFFFFFFFF
  | .encodeSend _ => 0xFF00FFFF
  | .tryReceive => 0xFFFFFFFF
  | .wait _ => 0xF0000000
  | .diagRead _ => 0xFFFFFFF8
  | .frameOut _ _ _ => 0
  | .frameIn _ _ _ => 0

/-- An encoded command matches its row; an encoded frame has its row's length and header. -/
def Statement (i : Instr) : Prop :=
  match encode i with
  | .command p => p.word &&& rowMask i = rowMatch i ∧ (i.port = .host ∨ i.port = .sequencer)
  | .wireOut bytes => i.port = .wireOut ∧ bytes.take 4 = headerOut ∧ (i.wellFormed = true → bytes.length = 22)
  | .wireIn bytes => i.port = .wireIn ∧ bytes.take 3 = headerIn ∧ bytes.length = 6

theorem init (port : Byte) : Statement (.init port) := by
  refine ⟨BitVec.eq_of_getLsbD_eq fun i hi => ?_, .inl rfl⟩
  simp only [rowMask, rowMatch, encodePacket, encodeWord, BitVec.getLsbD_and, BitVec.getLsbD_append]
  interval_cases i <;> simp

theorem setLine (line : Byte) (text : List Byte) : Statement (.setLine line text) := by
  refine ⟨BitVec.eq_of_getLsbD_eq fun i hi => ?_, .inl rfl⟩
  simp only [rowMask, rowMatch, encodePacket, encodeWord, BitVec.getLsbD_and, BitVec.getLsbD_append]
  interval_cases i <;> simp

theorem setLineAt (line : Byte) (col : BitVec 8) (text : List Byte) : Statement (.setLineAt line col text) := by
  refine ⟨BitVec.eq_of_getLsbD_eq fun i hi => ?_, .inl rfl⟩
  simp only [rowMask, rowMatch, encodePacket, encodeWord, BitVec.getLsbD_and, BitVec.getLsbD_append]
  interval_cases i <;> simp

theorem clearLine (line : Byte) : Statement (.clearLine line) := by
  refine ⟨BitVec.eq_of_getLsbD_eq fun i hi => ?_, .inl rfl⟩
  simp only [rowMask, rowMatch, encodePacket, encodeWord, BitVec.getLsbD_and, BitVec.getLsbD_append]
  interval_cases i <;> simp

theorem setBacklight (on : Bool) : Statement (.setBacklight on) := by
  cases on <;> exact ⟨rfl, .inl rfl⟩

theorem getButtons : Statement .getButtons := ⟨rfl, .inl rfl⟩

theorem encodeSend (line : Byte) : Statement (.encodeSend line) := by
  refine ⟨BitVec.eq_of_getLsbD_eq fun i hi => ?_, .inr rfl⟩
  simp only [rowMask, rowMatch, encodePacket, encodeWord, BitVec.getLsbD_and, BitVec.getLsbD_append]
  interval_cases i <;> simp

theorem tryReceive : Statement .tryReceive := ⟨rfl, .inr rfl⟩

theorem wait (ms : Millis) : Statement (.wait ms) := by
  refine ⟨BitVec.eq_of_getLsbD_eq fun i hi => ?_, .inr rfl⟩
  simp only [rowMask, rowMatch, encodePacket, encodeWord, BitVec.getLsbD_and, BitVec.getLsbD_append]
  interval_cases i <;> simp

theorem diagRead (idx : BitVec 3) : Statement (.diagRead idx) := by
  refine ⟨BitVec.eq_of_getLsbD_eq fun i hi => ?_, .inl rfl⟩
  simp only [rowMask, rowMatch, encodePacket, encodeWord, BitVec.getLsbD_and, BitVec.getLsbD_append]
  interval_cases i <;> simp

theorem frameOut (line backlight : BitVec 1) (text : List Byte) : Statement (.frameOut line backlight text) :=
  ⟨rfl, rfl, fun h => by
    have : text.length = 16 := by simpa [Instr.wellFormed] using h
    simp [this]⟩

theorem frameIn (x b c : Byte) : Statement (.frameIn x b c) := ⟨rfl, rfl, rfl⟩

end Sys2Proof.Laws.FitsRow
end

