-- ==== Sys2Proof/Laws/Reachable.lean ====
section
/-! SUPPORT. The induction over runs, once: what holds at power-on and is kept by every step holds of every
reachable state. -/

namespace Sys2Proof.Machine

/-- The induction principle of runs. -/
theorem reachable_of_kept {P : State → Prop} (start : ∀ s, PowerOn s → P s)
    (kept : ∀ s t, P s → step s = .next t → P t) {s : State} (h : Reachable s) : P s := by
  induction h with
  | powerOn h => exact start _ h
  | step _ hs ih => exact kept _ _ ih hs

/-- The reset parameters are admitted, whatever the OPEN values are (00_scope.md R7). -/
theorem reset_params_admitted : Params.reset.admitted := by
  have h1 : Config.tRecvWait ≤ 2 ^ 28 - 2 := by
    have : Config.recvWaitChoice % (2 ^ 28 - 2) < 2 ^ 28 - 2 := Nat.mod_lt _ (by norm_num)
    unfold Config.tRecvWait; omega
  have h0 : 1 ≤ Config.tRecvWait := by unfold Config.tRecvWait; omega
  have h2 : Config.sendWaitChoice % (2 ^ 28 - 1 - Config.tRecvWait) < 2 ^ 28 - 1 - Config.tRecvWait :=
    Nat.mod_lt _ (by omega)
  have h3 : Config.tRecvWait < Config.tSendWait ∧ Config.tSendWait < 2 ^ 28 := by unfold Config.tSendWait; omega
  refine ⟨by simp [Params.reset], ?_, ?_⟩ <;> simp only [Params.reset, BitVec.toNat_ofNat]
  · rw [Nat.mod_eq_of_lt (by omega)]; omega
  · rw [Nat.mod_eq_of_lt (by omega), Nat.mod_eq_of_lt h3.2]; exact h3.1

/-- Reset is itself a power-on state: with its own parameters and nothing supplied but what ENV put in `RXQ`. -/
theorem reset_powerOn : PowerOn State.reset :=
  ⟨Params.reset, [], .free, [], [], Config.rxqAtPowerOn, reset_params_admitted, rfl⟩

end Sys2Proof.Machine
end

