-- ==== Sys2Proof/Laws/Step.lean ====
section
/-! SUPPORT. Everything a step can do when it answers a next state, said once: the cases of a step, of a host command,
and of a command taken on the free sequencer port. -/

namespace Sys2Proof.Machine

/-- What a host-port command that answers a next state does. -/
inductive HostCase (i : Instr) (s : State) : State → Prop where
  | init (port : Byte) (d : Vector Word 8) (hi : i = .init port) (h0 : s.initDone = false) : HostCase i s
      { s with
        port := port, baudCalls := s.baudCalls ++ [(port, s.params.baudRate)], backlight := false, buttons := 0,
        diag := d, initDone := true, seqPhase := .issue,
        seqStep := if s.params.seqMode = .auto then .step1 else s.seqStep }
  | noop (h1 : s.initDone = true) : HostCase i s (s.bump .argReject)
  | setLine (line : Byte) (text : List Byte) (hi : i = .setLine line text) (h1 : s.initDone = true)
      (hl : line.toNat ≤ 1) : HostCase i s { s with mem := s.mem.writeRange (lineAddr line 0) (setLineBytes text) }
  | setLineAt (line : Byte) (col : BitVec 8) (text : List Byte) (hi : i = .setLineAt line col text)
      (h1 : s.initDone = true) (hl : line.toNat ≤ 1) (h0 : 0 ≤ col.toInt) (hw : col.toInt < 16) : HostCase i s
      { s with
        mem := s.mem.writeRange (lineAddr line col.toNat) (setLineAtBytes s.params.setAtTail col.toNat text) }
  | clearLine (line : Byte) (hi : i = .clearLine line) (h1 : s.initDone = true) (hl : line.toNat ≤ 1) :
      HostCase i s
        { s with mem := s.mem.writeRange (lineAddr line 0) (List.replicate width spaceByte ++ [nulByte]) }
  | backlight (on : Bool) (hi : i = .setBacklight on) (h1 : s.initDone = true) : HostCase i s { s with backlight := on }
  | respond (v : Word) (h1 : s.initDone = true) : HostCase i s { s with resp := s.resp ++ [v] }

theorem lineOutOfRange_false {line : Byte} (h : ¬ lineOutOfRange line = true) : line.toNat ≤ 1 := by
  simp [lineOutOfRange] at h; omega

theorem exec_host {i : Instr} {s t : State} (hp : i.port = .host) (h : exec i s = .next t) : HostCase i s t := by
  cases i with
  | init port =>
    simp only [exec, execInit] at h
    split at h
    · cases h
    · injection h with h
      subst h
      have h0 : s.initDone = false := by simpa using ‹¬s.initDone = true›
      have := HostCase.init (i := .init port) port (if s.params.hasDiag then Vector.replicate 8 0 else s.diag) rfl h0
      cases hm : s.params.seqMode <;> by_cases hd : s.params.hasDiag = true <;>
        simpa [State.configureBaud, hm, hd] using this
  | setLine line text =>
    simp only [exec, execSetLine] at h
    obtain ⟨h1, h⟩ := requireInit_next h
    split at h
    · injection h with h; subst h; exact .noop h1
    · injection h with h; subst h; exact .setLine line text rfl h1 (lineOutOfRange_false ‹_›)
  | setLineAt line col text =>
    simp only [exec, execSetLineAt] at h
    obtain ⟨h1, h⟩ := requireInit_next h
    split at h
    · injection h with h; subst h; exact .noop h1
    · injection h with h
      subst h
      have hr := ‹¬(lineOutOfRange line || colOutOfRange col) = true›
      simp only [Bool.or_eq_true, not_or, colOutOfRange, decide_eq_true_eq, width] at hr
      exact .setLineAt line col text rfl h1 (lineOutOfRange_false hr.1) (by omega) (by omega)
  | clearLine line =>
    simp only [exec, execClearLine] at h
    obtain ⟨h1, h⟩ := requireInit_next h
    split at h
    · injection h with h; subst h; exact .noop h1
    · injection h with h; subst h; exact .clearLine line rfl h1 (lineOutOfRange_false ‹_›)
  | setBacklight on =>
    simp only [exec, execSetBacklight] at h
    obtain ⟨h1, h⟩ := requireInit_next h
    injection h with h; subst h; exact .backlight on rfl h1
  | getButtons =>
    simp only [exec, execGetButtons] at h
    obtain ⟨h1, h⟩ := requireInit_next h
    injection h with h; subst h; exact .respond _ h1
  | diagRead idx =>
    simp only [exec, execDiagRead] at h
    split at h
    · obtain ⟨h1, h⟩ := requireInit_next h
      injection h with h; subst h; exact .respond _ h1
    · cases h
  | encodeSend _ => cases hp
  | tryReceive => cases hp
  | wait _ => cases hp
  | frameOut _ _ _ => cases hp
  | frameIn _ _ _ => cases hp

/-- What a command does when the free sequencer port takes it. -/
inductive StartCase (i : Instr) (s : State) : State → Prop where
  | noop (line : Byte) (hi : i = .encodeSend line) (hl : 1 < line.toNat) : StartCase i s (s.bump .argReject)
  | snapshot (line : Byte) (buf : Vector Byte 22) (hi : i = .encodeSend line) (hl : line.toNat ≤ 1)
      (hb : buf.toList = frame line s.backlight (s.lineStore line)) :
      StartCase i s { s with txBuf := buf, txIdx := 0, txPoll := 0, txState := .poll }
  | receive (hi : i = .tryReceive) : StartCase i s { s with rxState := .first }
  | wait (ms : Millis) (hi : i = .wait ms) : StartCase i s { s with waitMs := ms }

/-- A sequencer-port command that answers a next state waited for the port or was taken. -/
theorem exec_sequencer {i : Instr} {s t : State} (hp : i.port = .sequencer) (h : exec i s = .next t) :
    s.initDone = true ∧
      ((s.portBusy = true ∧ t = { microStep s with inputs := .sequencer (encodePacket i) :: s.inputs }) ∨
        (s.portBusy = false ∧ StartCase i s t)) := by
  cases i with
  | encodeSend line =>
    simp only [exec, execEncodeSend] at h
    obtain ⟨h1, ⟨hb, h⟩ | ⟨hb, h⟩⟩ := onSequencerPort_next h
    · exact ⟨h1, .inl ⟨hb, by rw [h, microStep_hold]⟩⟩
    · refine ⟨h1, .inr ⟨hb, ?_⟩⟩
      split at h
      · injection h with h; subst h
        exact .noop line rfl (by simpa [lineOutOfRange] using ‹lineOutOfRange line = true›)
      · injection h with h; subst h
        exact .snapshot line _ rfl (lineOutOfRange_false ‹_›) (toList_toTxBuf (length_frame _ _ _))
  | tryReceive =>
    simp only [exec, execTryReceive] at h
    obtain ⟨h1, ⟨hb, h⟩ | ⟨hb, h⟩⟩ := onSequencerPort_next h
    · exact ⟨h1, .inl ⟨hb, by rw [h, microStep_hold]⟩⟩
    · injection h with h; subst h; exact ⟨h1, .inr ⟨hb, .receive rfl⟩⟩
  | wait ms =>
    simp only [exec, execWait] at h
    obtain ⟨h1, ⟨hb, h⟩ | ⟨hb, h⟩⟩ := onSequencerPort_next h
    · exact ⟨h1, .inl ⟨hb, by rw [h, microStep_hold]⟩⟩
    · injection h with h; subst h; exact ⟨h1, .inr ⟨hb, .wait ms rfl⟩⟩
  | init _ => cases hp
  | setLine _ _ => cases hp
  | setLineAt _ _ _ => cases hp
  | clearLine _ => cases hp
  | setBacklight _ => cases hp
  | getButtons => cases hp
  | diagRead _ => cases hp
  | frameOut _ _ _ => cases hp
  | frameIn _ _ _ => cases hp

/-- What decodes from an inbound burst is that burst's FRAME_IN. -/
theorem decodeWireIn_ok {bytes : List Byte} {i : Instr} (h : decodeWireIn bytes = .ok i) :
    ∃ x b c, i = .frameIn x b c ∧ bytes = frameInBytes x b c := by
  unfold decodeWireIn at h
  split_ifs at h with h1 h2
  injection h with h
  subst h
  simp only [frameInLen, ne_eq, Decidable.not_not] at h1 h2
  match bytes, h1, h2 with
  | [b0, b1, b2, b3, b4, b5], _, h2 =>
    simp at h2
    obtain ⟨rfl, rfl, rfl⟩ := h2
    exact ⟨b3, b4, b5, rfl, rfl⟩

/-- What decodes from bytes offered on the outgoing wire is the FRAME_OUT of exactly those bytes. -/
theorem decodeWireOut_ok {bytes : List Byte} {i : Instr} (h : decodeWireOut bytes = .ok i) :
    ∃ l b text, i = .frameOut l b text ∧ text.length = 16 := by
  unfold decodeWireOut at h
  simp only at h
  split_ifs at h with h1
  injection h with h
  subst h
  exact ⟨_, _, _, rfl, by simp at h1; simp [h1]⟩

/-- A FRAME_OUT that answers a next state changed nothing, or was SEQ's issue of ENCODE_SEND of its line. -/
theorem exec_frameOut {line backlight : BitVec 1} {text : List Byte} {s t : State}
    (h : exec (.frameOut line backlight text) s = .next t) :
    t = s ∨
    (s.portBusy = false ∧ s.initDone = true ∧ s.seqPhase = .issue ∧ ∃ p left u, NextIssue s p left ∧
      decodeCommand p = .ok (.encodeSend (line.zeroExtend 8)) ∧
      StartCase (.encodeSend (line.zeroExtend 8)) { s with script := left } u ∧ t = { u with seqPhase := .busy }) := by
  simp only [exec, execFrameOut] at h
  split at h
  · injection h with h; exact .inl h.symm
  · rename_i p v hn
    obtain ⟨hb, hp, hn⟩ := (issueNow_some_iff ..).1 hn
    obtain ⟨hv, hi⟩ := nextIssue_some hn
    split at h
    · rename_i hs
      injection h with h
      have h1 : s.initDone = true := by
        have := hs.2; simp only [State.sendsFrame, Bool.and_eq_true] at this; exact this.1
      have hl : BitVec.toNat (line.zeroExtend 8) ≤ 1 := by simp; omega
      refine .inr ⟨hb, h1, hp, p, v.script, snapshot (line.zeroExtend 8) v, hi, hs.1, ?_, h.symm⟩
      have := StartCase.snapshot (s := v) _ _ rfl hl (toList_toTxBuf (length_frame _ _ _))
      rw [← hv]; exact this
    · injection h with h; exact .inl h.symm

/-- Everything a step can do; `l` and `n` stand for the moves to come after it and the free moves drawn. -/
inductive StepCase (s : State) : State → Prop where
  | host (p : Packet) (l : List Input) (n : Nat) (i : Instr) {t : State} (hm : s.nextMove.1 = .host p)
      (hd : decodeCommand p = .ok i) (hp : i.port = .host) (h : HostCase i { s with inputs := l, drawn := n } t) :
      StepCase s t
  | micro (l : List Input) (n : Nat) (hb : s.portBusy = true) : StepCase s { microStep s with inputs := l, drawn := n }
  | stutter (l : List Input) (n : Nat) : StepCase s { s with inputs := l, drawn := n }
  | advance (l : List Input) (n : Nat) (hb : s.portBusy = false) (hp : s.seqPhase = .busy) :
      StepCase s (seqAdvance { s with inputs := l, drawn := n })
  | issue (l : List Input) (n : Nat) (p : Packet) (script : List Packet) (i : Instr) {t : State}
      (hb : s.portBusy = false) (h1 : s.initDone = true) (hp : s.seqPhase = .issue) (hn : NextIssue s p script)
      (hd : decodeCommand p = .ok i)
      (h : StartCase i { s with inputs := l, drawn := n, script := script } t) : StepCase s { t with seqPhase := .busy }
  | arrival (l : List Input) (n : Nat) (bytes : List Byte) (hm : s.nextMove.1 = .wireIn bytes) :
      StepCase s { s with inputs := l, drawn := n, rxq := s.rxq ++ bytes }

theorem seqTurn_case {s t : State} (l : List Input) (n : Nat)
    (h : seqTurn { s with inputs := l, drawn := n } = .next t) : StepCase s t := by
  obtain ⟨hb, rfl⟩ | ⟨hb, -, rfl⟩ | ⟨hb, hp, rfl⟩ | ⟨hb, hp, h⟩ := seqTurn_next h
  · rw [microStep_moves]; exact .micro l n hb
  · exact .stutter l n
  · exact .advance l n hb hp
  · obtain ⟨-, rfl⟩ | ⟨p, left, s', hn, hd, rfl⟩ := seqIssue_next h
    · exact .stutter l n
    · obtain ⟨i, hi, -, hs, he⟩ := deliver_next hd
      obtain ⟨h1, ⟨hb', -⟩ | ⟨-, hc⟩⟩ := exec_sequencer hs he
      · exact absurd (hb.symm.trans hb') (by simp)
      · exact .issue l n p left i hb h1 hp hn hi hc

/-- The inversion of a step. -/
theorem step_case {s t : State} (h : step s = .next t) : StepCase s t := by
  unfold step at h
  rw [nextMove_eq] at h
  generalize s.nextMove.2.inputs = l at h
  generalize s.nextMove.2.drawn = n at h
  generalize hm : s.nextMove.1 = e at h
  cases e with
  | host p =>
    obtain ⟨i, hd, -, hp, he⟩ := deliver_next h
    exact .host p l n i hm hd hp (exec_host hp he)
  | sequencer p =>
    obtain ⟨l', h⟩ := offer_next h
    exact seqTurn_case l' n h
  | seqTurn => exact seqTurn_case l n h
  | wireIn bytes =>
    simp only [takeInput] at h
    split at h
    · obtain ⟨x, b, c, rfl, rfl⟩ := decodeWireIn_ok ‹_›
      injection h with h; subst h; exact .arrival l n _ hm
    · injection h with h; subst h; exact .arrival l n _ hm
  | wireOut bytes =>
    simp only [takeInput] at h
    split at h
    · obtain ⟨x, b, text, rfl, -⟩ := decodeWireOut_ok ‹_›
      obtain rfl | ⟨hb, h1, hp, p, left, u, hn, hd, hc, rfl⟩ := exec_frameOut h
      · exact .stutter l n
      · exact .issue l n p left _ hb h1 hp hn hd hc
    · cases h

end Sys2Proof.Machine
end

