-- ==== Sys2Proof/Tests/Slice0.lean ====
section
/-! SUPPORT. The model's own tests. Expected results are those of spec/95_test_vectors.md (the vector is named at each
test) or are written out from the encodings of 30_encoding.md; the witnesses show that the hypotheses of each
obligation can be met together. -/

open Sys2Proof Sys2Proof.Machine Sys2Proof.Claims

namespace Sys2Proof.Tests

/-- Parameters of the tests; `TX_POLL_MAX = 4` is that of V-E19. -/
def params : Params where
  txPollMax := 4
  tSendWait := 20
  tRecvWait := 5
  baudRate := 0
  seqPriority := 0
  setAtTail := .keep
  hasDiag := true
  seqMode := .auto

/-- Just after `INIT 0` (the start state of part 2.2), with nothing in `RXQ` and no agent but SEQ to move. -/
def ready : State :=
  { State.reset with params := params, initDone := true, seqPhase := .issue, rxq := [], later := .repeating [] }

/-- Before INIT. -/
def cold : State := { ready with initDone := false, seqPhase := .stopped }

/-- A test script of one command. -/
def scripted (p : Packet) : State :=
  { ready with params := { params with seqMode := .script }, script := [p] }

/-- A frame in progress, ready to be sent from byte `i`; the frame is V-E4. -/
def sending (st : TxState) (i : Nat) : State :=
  { ready with txState := st, txIdx := i, txBuf := toTxBuf (frame 1 false []) }

/-- A reception at the given point, `bytes` collected, `q` still in `RXQ`. -/
def receiving (st : RxState) (bytes q : List Byte) : State :=
  { ready with
    buttons := 0x33, rxState := st, rxCnt := bytes.length, rxBuf := Vector.ofFn fun k => bytes.getD k.val 0, rxq := q }

/-- The step went on, and the next state passes a check. -/
def next (r : Result) (check : State → Bool) : Bool :=
  match r with
  | .next t => check t
  | .fault _ => false
  | .refused _ => false

/-- The step was refused for this reason. -/
def refusedAs (r : Result) (why : Refusal) : Bool :=
  match r with
  | .next _ => false
  | .fault _ => false
  | .refused w => decide (w = why)

/-- "HELLO" and "Battery 7.9V" (part 1 S7, V-E7). -/
def hello : List Byte := [0x48, 0x45, 0x4C, 0x4C, 0x4F]
def battery : List Byte := [0x42, 0x61, 0x74, 0x74, 0x65, 0x72, 0x79, 0x20, 0x37, 0x2E, 0x39, 0x56]

/-! ### Well-formedness: the one check, and the ill-formed term it refuses -/

theorem test_frameOut_text15_illFormed : (Instr.frameOut 0 0 (List.replicate 15 0x20)).wellFormed = false := by decide
theorem test_frameOut_text17_illFormed : (Instr.frameOut 0 0 (List.replicate 17 0x20)).wellFormed = false := by decide
theorem test_frameOut_text16_wellFormed : (Instr.frameOut 1 0 (List.replicate 16 0x20)).wellFormed = true := by decide

/-! ### Decoding: each command's word written out field by field (30_encoding.md R52, R56; V-C1 to V-C12) -/

theorem test_decode_init : decodeCommand ⟨0b00010000_00000000_00000000_00000011, []⟩ = .ok (.init 3) := by decide
theorem test_decode_setLine :
    decodeCommand ⟨0b00100000_00000001_00000000_00000000, [0x48, 0x49]⟩ = .ok (.setLine 1 [0x48, 0x49]) := by decide
theorem test_decode_setLineAt :
    decodeCommand ⟨0b00110000_00000000_00000101_00000000, [0x58]⟩ = .ok (.setLineAt 0 5 [0x58]) := by decide
theorem test_decode_clearLine : decodeCommand ⟨0b01000000_00000001_00000000_00000000, []⟩ = .ok (.clearLine 1) := by
  decide
theorem test_decode_setBacklight :
    decodeCommand ⟨0b01010000_00000000_00000000_00000001, []⟩ = .ok (.setBacklight true) := by decide
theorem test_decode_getButtons : decodeCommand ⟨0b01100000_00000000_00000000_00000000, []⟩ = .ok .getButtons := by
  decide
theorem test_decode_encodeSend : decodeCommand ⟨0b01110000_00000010_00000000_00000000, []⟩ = .ok (.encodeSend 2) := by
  decide
theorem test_decode_tryReceive : decodeCommand ⟨0b10000000_00000000_00000000_00000000, []⟩ = .ok .tryReceive := by
  decide
theorem test_decode_wait : decodeCommand ⟨0b10011111_11111111_11111111_11111111, []⟩ = .ok (.wait 268435455) := by
  decide
theorem test_decode_diagRead : decodeCommand ⟨0b10100000_00000000_00000000_00000110, []⟩ = .ok (.diagRead 6) := by
  decide
/-- V-E8 and V-C19. -/
theorem test_decode_frameOut :
    decodeWireOut ([0xAA, 0x55, 0x1E, 0x12, 0x03] ++ battery ++ [0x20, 0x20, 0x20, 0x20, 0x8E]) =
      .ok (.frameOut 1 1 (battery ++ [0x20, 0x20, 0x20, 0x20])) := by decide
theorem test_decode_frameIn : decodeWireIn [0xAA, 0x55, 0x16, 0x3C, 0x01, 0xFF] = .ok (.frameIn 0x3C 0x01 0xFF) := by
  decide

/-- V-C14 to V-C17, and a frame with one wrong byte of each kind. -/
theorem test_decode_reserved :
    [0x00000000, 0xB0000000, 0xC0000000, 0xF1234567].map (fun w => decodeCommand ⟨w, []⟩) =
      List.replicate 4 (.error .reservedOpcode) := by decide
theorem test_decode_unusedBits :
    [0x50000002, 0x21010000, 0x80000001, 0xA0000008].map (fun w => decodeCommand ⟨w, []⟩) =
      List.replicate 4 (.error .unusedFieldSet) := by decide
theorem test_decode_badChecksum :
    decodeWireOut ([0xAA, 0x55, 0x1E, 0x12, 0x01] ++ List.replicate 16 0x20 ++ [0xFE]) = .error .frameChecksum := by
  decide
theorem test_decode_badSelector :
    decodeWireOut ([0xAA, 0x55, 0x1E, 0x12, 0x04] ++ List.replicate 16 0x20 ++ [0xFC]) = .error .frameSelector := by
  decide
theorem test_decode_badHeaderAndLength :
    decodeWireIn [0xAA, 0x55, 0x17, 0, 5, 0xFB] = .error .frameHeader ∧
    decodeWireIn [0xAA, 0x55, 0x16, 0, 5] = .error .frameLength := by decide

/-! ### Encoding: the words of V-C1 to V-C12, the other way round -/

theorem test_encode_words :
    [Instr.init 255, .setLine 1 [], .setLineAt 1 (BitVec.ofInt 8 (-1)) [], .setLineAt 0 16 [], .clearLine 1,
      .setBacklight true, .getButtons, .encodeSend 1, .tryReceive, .wait 5, .diagRead 6].map encodeWord =
    [0x100000FF, 0x20010000, 0x3001FF00, 0x30001000, 0x40010000, 0x50000001, 0x60000000, 0x70010000, 0x80000000,
      0x90000005, 0xA0000006] := by decide

/-- The table's own numbering: a 32-bit word, and the two frames with byte 0 most significant. -/
theorem test_tableWords :
    decodeTableWord 32 0x90000014 = some (.wait 20) ∧
    decodeTableWord 48 0xAA55163C01FF = some (.frameIn 0x3C 0x01 0xFF) ∧
    decodeTableWord 176 0xAA551E1201_20202020202020202020202020202020_FF =
      some (.frameOut 1 0 (List.replicate 16 0x20)) ∧
    decodeTableWord 32 0x50000002 = none := by decide

/-! ### Written form (30_encoding.md R58, R60) -/

theorem test_assemble_setLineAt :
    assembleLine params ['S','E','T','_','L','I','N','E','_','A','T',' ','1',',',' ','-','1',',',' ','"','X','"'] =
      .ok [.setLineAt 1 (BitVec.ofInt 8 (-1)) [0x58]] := by decide
/-- SET_BACKLIGHT takes 0 or 1 (R58). -/
theorem test_assemble_outOfField :
    assembleLine params ['S','E','T','_','B','A','C','K','L','I','G','H','T',' ','2'] = .error .outOfField := by
  decide

/-! ### Host-port commands -/

/-- V-A1. -/
theorem test_init : next (exec (.init 3) cold) (fun t =>
    t.initDone && t.port == 3 && !t.backlight && t.buttons == 0 && decide (t.seqPhase = .issue) &&
    decide (t.seqStep = .step1) && t.mem.isEmpty) = true := by decide
/-- V-A2. -/
theorem test_init_twice : refusedAs (exec (.init 0) ready) .doubleInit = true := by decide
/-- V-A7. -/
theorem test_setLine_truncates : next (exec (.setLine 0 ((List.range 20).map fun k => BitVec.ofNat 8 (0x41 + k))) ready)
    (fun t => t.lineStore 0 == ((List.range 16).map fun k => BitVec.ofNat 8 (0x41 + k)) ++ [0]) = true := by decide
/-- V-A8. -/
theorem test_setLine_nul : next (exec (.setLine 0 [0x41, 0, 0x42]) ready)
    (fun t => t.lineStore 0 == [0x41] ++ List.replicate 16 0) = true := by decide
/-- V-A12. -/
theorem test_setLineAt_edge : next (exec (.setLineAt 0 14 [0x58, 0x59, 0x5A]) (ready.writeLine 0 0 (List.replicate 16 0x20)))
    (fun t => t.lineStore 0 == List.replicate 14 0x20 ++ [0x58, 0x59, 0]) = true := by decide
/-- V-A18 under `ZERO_FILL`. -/
theorem test_setLineAt_zeroFill : next
    (exec (.setLineAt 0 0 []) { ready.writeLine 0 0 hello with params := { params with setAtTail := .zeroFill } })
    (fun t => t.mem.isEmpty) = true := by decide
/-- V-A19. -/
theorem test_clearLine : next (exec (.clearLine 1) ready)
    (fun t => t.lineStore 1 == List.replicate 16 0x20 ++ [0] && t.lineStore 0 == List.replicate 17 0) = true := by decide
/-- V-A20. -/
theorem test_clearLine_5 : next (exec (.clearLine 5) ready)
    (fun t => t.mem.isEmpty && t.diag.toList == [0, 0, 0, 0, 0, 0, 1, 0]) = true := by decide
/-- V-A21. -/
theorem test_setBacklight : next (exec (.setBacklight true) ready) (fun t => t.backlight) = true ∧
    next (exec (.setBacklight false) { ready with backlight := true }) (fun t => !t.backlight) = true := by decide
/-- V-A23. -/
theorem test_getButtons : next (exec .getButtons { ready with buttons := 0x80 }) (fun t => t.resp == [0x00000080]) = true :=
  by decide
/-- Part 3 P2: `DIAG = [0, 0, 0, 0, 0, 22, 3, 2]`, H8. -/
theorem test_diagRead : next (exec (.diagRead 5) { ready with diag := #v[0, 0, 0, 0, 0, 22, 3, 2] })
    (fun t => t.resp == [22] && t.diag.toList == [0, 0, 0, 0, 0, 22, 3, 2]) = true := by decide

/-! ### The encoder -/

/-- V-E1: the snapshot. -/
theorem test_encodeSend : next (exec (.encodeSend 0) { ready.writeLine 0 0 hello with backlight := true })
    (fun t => t.txBuf.toList == [0xAA, 0x55, 0x1E, 0x12, 0x02] ++ hello ++ List.replicate 11 0x20 ++ [0x2A]) = true := by
  decide
/-- V-E18. -/
theorem test_encodeSend_255 : next (exec (.encodeSend 255) ready)
    (fun t => decide (t.txState = .idle) && t.txLog.isEmpty && t.diag.toList == [0, 0, 0, 0, 0, 0, 1, 0]) = true := by
  decide
/-- V-E20: the fourth false answer lets the byte go, counted. -/
theorem test_txPoll_lastPoll : next
    (step { sending .poll 0 with txPoll := 3, readyAnswers := [false], inputs := [.seqTurn] })
    (fun t => decide (t.txState = .send) && t.diag.toList == [0, 0, 0, 0, 0, 1, 0, 0]) = true := by decide
/-- V-A25: the 22nd byte, and `DIAG[7]` wraps. -/
theorem test_txSend_lastByte : next
    (step { sending .send 21 with diag := #v[0, 0, 0, 0, 0, 0, 0, 0xFFFFFFFF] })
    (fun t => decide (t.txState = .idle) && t.txLog == [0xFF] && t.diag.toList == List.replicate 8 0) = true := by decide

/-! ### The receive assembler -/

/-- V-R1 and V-R2: the first read. -/
theorem test_tryReceive : next (exec .tryReceive ready) (fun t => decide (t.rxState = .first)) = true := by decide
theorem test_rxFirst_none : next (step (receiving .first [] [])) (fun t => decide (t.rxState = .idle) && t.buttons == 0x33) = true :=
  by decide
/-- V-R9: no 18th read. -/
theorem test_rxCollect_full : next (step (receiving .collect (List.replicate 17 0x55) [0x55, 0x55, 0x55]))
    (fun t => decide (t.rxState = .check) && t.rxq.length == 3) = true := by decide
/-- V-R16: accepted, byte 3 is ignored. -/
theorem test_rxCheck_accept : next (step (receiving .check [0xAA, 0x55, 0x16, 0xFF, 0x01, 0xFF] []))
    (fun t => t.buttons == 0x01 && t.diag.toList == [1, 0, 0, 0, 0, 0, 0, 0]) = true := by decide
/-- V-R12: the header is tested before the checksum. -/
theorem test_rxCheck_badHeader : next (step (receiving .check [0xAA, 0x55, 0x17, 0x00, 0x05, 0xFA] []))
    (fun t => t.buttons == 0x33 && t.diag.toList == [0, 0, 1, 0, 0, 0, 0, 0]) = true := by decide
/-- V-R18: the drain discards and counts. -/
theorem test_rxDrain : next (step (receiving .drain [0xAA, 0x55, 0x16, 0x00, 0x05] [0xFB]))
    (fun t => decide (t.rxState = .drain) && t.rxq.isEmpty && t.diag.toList == [0, 0, 0, 0, 1, 0, 0, 0]) = true := by
  decide

/-! ### The sequencer, the wires and the refusals -/

/-- V-S7. -/
theorem test_wait : next (exec (.wait 20) ready) (fun t => t.waitMs == 20 && decide (t.seqPhase = .issue)) = true := by
  decide
/-- V-S1: the next SEQ step issues `ENCODE_SEND 0`. -/
theorem test_seq_issue : next (step ready)
    (fun t => decide (t.txState = .poll) && decide (t.seqPhase = .busy) && decide (t.seqStep = .step1)) = true := by decide
/-- V-S3. -/
theorem test_seq_wrap : next (step { ready with seqStep := .step8, seqPhase := .busy })
    (fun t => decide (t.seqStep = .step1) && decide (t.seqPhase = .issue)) = true := by decide
/-- V-S5. -/
theorem test_seq_stopped : next (step cold) (fun t => decide (t.seqPhase = .stopped) && t.txLog.isEmpty) = true := by decide
/-- V-S8, V-S9, V-S10. -/
theorem test_wrongPort : refusedAs (step (scripted ⟨0x60000000, []⟩)) .wrongPort = true ∧
    refusedAs (step { ready with inputs := [.host ⟨0x80000000, []⟩] }) .wrongPort = true ∧
    refusedAs (step { cold with inputs := [.sequencer ⟨0x70000000, []⟩] }) .notInitialised = true := by decide
/-- V-X1 to V-X6. -/
theorem test_refusalOrder :
    refusedAs (deliver .sequencer ⟨0xC0000000, []⟩ cold) .reserved = true ∧
    refusedAs (deliver .sequencer ⟨0x20000000, []⟩ cold) .wrongPort = true ∧
    refusedAs (deliver .host ⟨0x20070000, [0x58]⟩ cold) .notInitialised = true ∧
    refusedAs (deliver .host ⟨0xA0000000, []⟩ { cold with params := { params with hasDiag := false } }) .reserved = true ∧
    refusedAs (deliver .host ⟨0x10000000, []⟩ ready) .doubleInit = true ∧
    refusedAs (deliver .sequencer ⟨0x10000000, []⟩ ready) .wrongPort = true := by decide
/-- R48, R32: the six bytes of V-R2 in index order. -/
theorem test_frameIn : next (exec (.frameIn 0x00 0x05 0xFB) ready)
    (fun t => t.rxq == [0xAA, 0x55, 0x16, 0x00, 0x05, 0xFB]) = true := by decide
/-- V-E4: at step 5 the frame the block would send is loaded, and TXLOG is not touched (20_memory.md R30); V-E6's is not
the block's with the backlight off. -/
theorem test_frameOut : next (exec (.frameOut 1 0 (List.replicate 16 0x20)) { ready with seqStep := .step5 })
      (fun t => t.txBuf.toList == [0xAA, 0x55, 0x1E, 0x12, 0x01] ++ List.replicate 16 0x20 ++ [0xFF] &&
        decide (t.txState = .poll) && decide (t.seqPhase = .busy) && t.txLog.isEmpty) = true ∧
    next (exec (.frameOut 1 1 (List.replicate 16 0x20)) { ready with seqStep := .step5 })
      (fun t => decide (t.txState = .idle)) = true := by decide
/-- R40 with V-S1: a TRY_RECEIVE presented at step 1 of the cycle starts nothing but SEQ's own ENCODE_SEND 0. -/
theorem test_offer_waits : next (step { ready with inputs := [.sequencer ⟨0x80000000, []⟩] })
    (fun t => decide (t.txState = .poll) && decide (t.rxState = .idle) && t.inputs == [.sequencer ⟨0x80000000, []⟩]) =
      true := by decide
/-- A word placed by the host runs as the very next step: INIT from reset, FRAME_IN and TRY_RECEIVE after it. -/
theorem test_withFetchWord :
    next (step (State.reset.withFetchWord 32 0x10000003)) (fun t => t.initDone && t.port == 3) = true ∧
    next (step (ready.withFetchWord 48 0xAA55163C01FF))
      (fun t => t.rxq == [0xAA, 0x55, 0x16, 0x3C, 0x01, 0xFF]) = true ∧
    next (step (ready.withFetchWord 32 0x80000000)) (fun t => decide (t.rxState = .first)) = true := by decide

/-! ### Witnesses: the hypotheses of the obligations met together, each clause at a boundary -/

/-- With `ready.initDone`, for ENCODE_SEND, TRY_RECEIVE, WAIT and FRAME_OUT. -/
theorem portFree_ready : portFree ready := ⟨rfl, rfl⟩

theorem witness_EncodeThenDecode : (Instr.frameOut 1 1 (List.replicate 16 0xFF)).wellFormed = true := by decide
theorem witness_DecodedInstructionEncodesBack :
    decodeCommand ⟨0x9FFFFFFF, []⟩ = .ok (.wait 268435455) ∧
    decodeWireOut ([0xAA, 0x55, 0x1E, 0x12, 0x00] ++ List.replicate 16 0x20 ++ [0x00]) =
      .ok (.frameOut 0 0 (List.replicate 16 0x20)) ∧
    decodeWireIn [0xAA, 0x55, 0x16, 0xFF, 0xFF, 0x01] = .ok (.frameIn 0xFF 0xFF 0x01) := by decide
theorem witness_CommandWords_noRow : ∀ i, decodeCommand ⟨0xB0000000, []⟩ ≠ .ok i := by
  intro i h; cases h
theorem witness_ReservedEncodings :
    (0x00000000 : Word).extractLsb' 28 4 = 0 ∧ 0xB ≤ ((0xB0000000 : Word).extractLsb' 28 4).toNat ∧
    ((0x10000100 : Word).extractLsb' 28 4 = 1 ∧ (0x10000100 : Word) &&& 0x0FFFFF00 ≠ 0) ∧
    ((0xA0000000 : Word).extractLsb' 28 4 = 0xA ∧
      (State.params { ready with params := { params with hasDiag := false } }).hasDiag = false) := by decide
theorem witness_InboundFrame_length : ([] : List Byte).length ≠ 6 ∧ (List.replicate 7 0xAA : List Byte).length ≠ 6 := by
  decide
/-- The premises on the line operand of the frame, line and ENCODE_SEND statements. -/
theorem witness_line_valid : (0 : Byte).toNat ≤ 1 ∧ (1 : Byte).toNat ≤ 1 := by decide
theorem witness_line_invalid : 1 < (2 : Byte).toNat ∧ 1 < (255 : Byte).toNat := by decide
theorem witness_FrameIsHeaderSelectorTextChecksum :
    (1 : Byte).toNat ≤ 1 ∧ (List.replicate 17 0x41 : List Byte).length = 17 ∧
    (∀ j, j ≤ 15 → (List.replicate 17 0x41 : List Byte).getD j 0 ≠ 0) ∧
    (List.replicate 17 0 : List Byte).getD 0 0 = 0 := by decide

/-- A power-on state meets the premise of the invariant's first claim, and with it the premise of the second. -/
theorem witness_PowerOn : PowerOn State.reset := reset_powerOn
theorem witness_Reachable : Reachable State.reset := .powerOn reset_powerOn
/-- For every statement whose one premise is a step that goes on. -/
theorem witness_step : ∃ t, step ready = .next t := ⟨_, rfl⟩
theorem witness_Invariant : Invariant ready where
  admitted := by decide
  memWf := rfl
  terminator0 := rfl
  terminator1 := rfl
  txIdxLe := by decide
  txIdxBusy := fun h => absurd rfl h
  txPollLe := by decide
  txPollBusy := fun h => by cases h
  txFrame := fun h => absurd rfl h
  rxCntLe := by decide
  rxCntBusy := fun h => by cases h <;> contradiction
  onePort := .inl rfl
  beforeInit := fun h => by cases h
  afterInit := fun _ h => by cases h
theorem witness_TxLogFramed : TxLogFramed ready := ⟨[], fun _ h => (by cases h), rfl⟩

theorem witness_Step_ports :
    decodeCommand ⟨0x60000000, []⟩ = .ok .getButtons ∧ Instr.getButtons.port = .host ∧
    decodeCommand ⟨0x80000000, []⟩ = .ok .tryReceive ∧ Instr.tryReceive.port = .sequencer ∧
    decodeWireIn [0xAA, 0x55, 0x16, 0, 0, 0] = .ok (.frameIn 0 0 0) ∧
    decodeWireOut ([0xAA, 0x55, 0x1E, 0x12, 0x03] ++ List.replicate 16 0x20 ++ [0xFD]) =
      .ok (.frameOut 1 1 (List.replicate 16 0x20)) := by decide
theorem witness_Step_nextMove :
    State.nextMove { ready with inputs := [.host ⟨0x60000000, []⟩] } = (.host ⟨0x60000000, []⟩, ready) ∧
    State.nextMove { ready with inputs := [.sequencer ⟨0x80000000, []⟩] } = (.sequencer ⟨0x80000000, []⟩, ready) ∧
    State.nextMove { ready with inputs := [.wireIn []] } = (.wireIn [], ready) ∧
    State.nextMove { ready with inputs := [.wireOut []] } = (.wireOut [], ready) ∧
    ready.nextMove = (.seqTurn, ready) ∧ ready.inputs = [] ∧ ready.later = .repeating [] ∧
    State.later { ready with later := .repeating [.wireIn [0]] } = .repeating (.wireIn [0] :: []) ∧
    State.reset.inputs = [] ∧ State.reset.later = .free := ⟨rfl, rfl, rfl, rfl, rfl, rfl, rfl, rfl, rfl, rfl⟩

/-- The four outcomes of R97 and R98, and the next state. -/
theorem witness_CommandsAreRefused :
    (decodeCommand ⟨0xA0000000, []⟩ = .ok (.diagRead 0) ∧
      State.params { ready with params := { params with hasDiag := false } } = { params with hasDiag := false }) ∧
    (decodeCommand ⟨0x60000000, []⟩ = .ok .getButtons ∧ Instr.getButtons.port ≠ .sequencer) ∧
    (cold.initDone = false ∧ ∀ q, Instr.getButtons ≠ .init q) ∧
    (ready.initDone = true ∧ Instr.init 0 = .init 0) ∧
    (ready.initDone = true ↔ ∀ q, Instr.getButtons ≠ .init q) ∧
    (cold.initDone = true ↔ ∀ q, Instr.init 0 ≠ .init q) :=
  ⟨⟨by decide, rfl⟩, ⟨by decide, by decide⟩, ⟨rfl, fun _ h => by cases h⟩, ⟨rfl, rfl⟩,
    ⟨fun _ _ h => (by cases h), fun _ => rfl⟩, ⟨fun h => (by cases h), fun h => absurd rfl (h 0)⟩⟩
theorem witness_BusyPort : (sending .poll 0).initDone = true ∧ ¬ portFree (sending .poll 0) ∧
    ¬ portFree (receiving .drain [] []) := by
  refine ⟨rfl, fun h => ?_, fun h => ?_⟩
  · cases h.1
  · cases h.2

theorem witness_Init : cold.initDone = false ∧ ready.initDone = true := by decide
/-- For SET_LINE and CLEAR_LINE. -/
theorem witness_SetLine : ready.initDone = true ∧ (1 : Byte).toNat ≤ 1 ∧ ready.mem.wf = true := by decide
theorem witness_SetLineAt :
    (0 : BitVec 8).toInt = 0 ∧ (15 : BitVec 8).toInt < 16 ∧ 16 ≤ (16 : BitVec 8).toInt ∧
    (BitVec.ofInt 8 (-1)).toInt < 0 ∧ (BitVec.ofInt 8 (-128)).toInt < 0 ∧ 16 ≤ (127 : BitVec 8).toInt ∧
    ready.initDone = true ∧ ready.mem.wf = true := by decide
theorem witness_SetBacklight : (0x50000002 : Word).extractLsb' 28 4 = 0x5 ∧ (0x50000002 : Word).extractLsb' 1 7 ≠ 0 ∧
    (0x50000080 : Word).extractLsb' 1 7 ≠ 0 := by decide
theorem witness_DiagRead : ready.params.hasDiag = true ∧ ready.initDone = true ∧ cold.params.hasDiag = true ∧
    cold.initDone = false := by decide
theorem witness_TextSetIsTextSent :
    ready.initDone = true ∧ portFree ready ∧ ready.mem.wf = true ∧ (1 : Byte).toNat ≤ 1 ∧
    textLen (List.replicate 16 0x41) ≤ 16 ∧ 16 < textLen (List.replicate 17 0x41) ∧
    (∃ t, exec (.setLineAt 0 16 []) ready = .next t) :=
  ⟨rfl, ⟨rfl, rfl⟩, rfl, by decide, by decide, by decide, _, rfl⟩

theorem witness_TxPoll : (sending .poll 0).txState = .poll := rfl
theorem witness_TxSend : (sending .send 21).txIdx < 22 ∧ (sending .send 21).txState = .send := by decide
theorem witness_EncodeSendAlone :
    ready.initDone = true ∧ portFree ready ∧ alone ready ∧ (1 : Byte).toNat ≤ 1 ∧ 1 ≤ ready.params.txPollMax :=
  ⟨rfl, ⟨rfl, rfl⟩, ⟨rfl, rfl⟩, by decide, by decide⟩
/-- A frame the block sends, one it does not send, and a block that sends none yet. -/
theorem witness_FrameOut :
    frameOutBytes (selectorByte 1 0) (List.replicate 16 0x20) =
      frame ((1 : BitVec 1).zeroExtend 8) ready.backlight (ready.lineStore ((1 : BitVec 1).zeroExtend 8)) ∧
    frameOutBytes (selectorByte 1 1) (List.replicate 16 0x20) ≠
      frame ((1 : BitVec 1).zeroExtend 8) ready.backlight (ready.lineStore ((1 : BitVec 1).zeroExtend 8)) ∧
    cold.initDone = false := by decide
/-- In `AUTO` mode SEQ issues the row of its step, in `SCRIPT` mode the script's next command, and none while busy. -/
theorem witness_issues :
    issues ready (.encodeSend ((0 : BitVec 1).zeroExtend 8)) [] ∧
    issues { ready with seqStep := .step3 } .tryReceive [] ∧ issues (scripted ⟨0x90000014, []⟩) (.wait 20) [] ∧
    ∀ i left, ¬ issues { ready with seqPhase := .busy } i left :=
  ⟨⟨⟨rfl, rfl⟩, rfl, .inl ⟨rfl, rfl, rfl⟩⟩, ⟨⟨rfl, rfl⟩, rfl, .inl ⟨rfl, rfl, rfl⟩⟩,
    ⟨⟨rfl, rfl⟩, rfl, .inr ⟨rfl, _, rfl, by decide⟩⟩, fun _ _ h => by cases h.2.1⟩
/-- With `witness_issues`, for FRAME_OUT of line 0: the frame SEQ's ENCODE_SEND 0 sends, and one it does not. -/
theorem witness_FrameOut_line0 :
    frameOutBytes (selectorByte 0 0) (List.replicate 16 0x20) =
      frame ((0 : BitVec 1).zeroExtend 8) ready.backlight (ready.lineStore ((0 : BitVec 1).zeroExtend 8)) ∧
    frameOutBytes (selectorByte 0 0) (List.replicate 16 0x41) ≠
      frame ((0 : BitVec 1).zeroExtend 8) ready.backlight (ready.lineStore ((0 : BitVec 1).zeroExtend 8)) := by decide
/-- The three commands start, each by SEQ's issue. -/
theorem witness_OnlySequencer : portFree ready ∧ next (step ready) (fun t => decide (t.txState ≠ .idle)) = true ∧
    next (step { ready with seqStep := .step3 }) (fun t => decide (t.rxState ≠ .idle)) = true ∧
    next (step { ready with seqStep := .step2 }) (fun t => t.waitMs != ready.waitMs) = true :=
  ⟨⟨rfl, rfl⟩, by decide, by decide, by decide⟩
theorem witness_HostCommandWhileSending :
    State.nextMove { sending .poll 5 with inputs := [.host ⟨0x50000001, []⟩] } = (.host ⟨0x50000001, []⟩, sending .poll 5) ∧
    ∃ t, step { sending .poll 5 with inputs := [.host ⟨0x50000001, []⟩] } = .next t := ⟨rfl, _, rfl⟩
/-- TXLOG grows, and RXQ shrinks, in one step each. -/
theorem witness_OnlyMicroSteps : next (step (sending .send 0)) (fun t => t.txLog != []) = true ∧
    next (step (receiving .drain [] [0xFB])) (fun t => t.rxq.isEmpty) = true := by decide
theorem witness_FrameCounterWraps :
    (State.params { sending .send 21 with diag := Vector.replicate 8 0xFFFFFFFF }).hasDiag = true ∧
    (sending .send 21).txState = .send ∧ (sending .send 21).txIdx = 21 ∧
    (Vector.replicate 8 (0xFFFFFFFF : Word))[7] = 0xFFFFFFFF := by decide

theorem witness_RxFirst : (receiving .first [] []).txState = .idle ∧ (receiving .first [] []).rxState = .first ∧
    (receiving .first [] []).rxq = [] ∧ (receiving .first [] [0xAA]).rxq = 0xAA :: [] := by decide
theorem witness_RxCollect : (receiving .collect (List.replicate 17 0) []).rxCnt = 17 ∧
    (receiving .collect (List.replicate 16 0) [0x55]).rxCnt < 17 ∧
    (receiving .collect (List.replicate 16 0) [0x55]).rxState = .collect ∧
    (receiving .collect (List.replicate 16 0) [0x55]).rxq = 0x55 :: [] := by decide
theorem witness_RxCheck : (receiving .check [0xAA, 0x55, 0x16, 0, 0, 0] []).txState = .idle ∧
    (receiving .check [0xAA, 0x55, 0x16, 0, 0, 0] []).rxState = .check := by decide
theorem witness_RxDrain : (receiving .drain [] [0xFB]).rxState = .drain ∧ (receiving .drain [] []).rxq = [] := by decide
theorem witness_ButtonsChange : next (step (receiving .check [0xAA, 0x55, 0x16, 0, 0, 0] []))
      (fun t => t.buttons != 0x33) = true ∧
    next (step { cold with buttons := 0x33, inputs := [.host ⟨0x10000000, []⟩] }) (fun t => t.buttons != 0x33) = true := by
  decide
theorem witness_DrainRuns :
    State.inputs { receiving .drain [] [] with inputs := [.wireIn [0], .seqTurn, .wireIn [1], .seqTurn] } =
      [0, 1].flatMap (fun b : Byte => [.wireIn [b], .seqTurn]) := by decide

theorem witness_DrainNeverEnds :
    State.rxState { receiving .drain [] [] with later := .repeating [.wireIn [0], .seqTurn] } = .drain ∧
    State.txState { receiving .drain [] [] with later := .repeating [.wireIn [0], .seqTurn] } = .idle ∧
    State.inputs { receiving .drain [] [] with later := .repeating [.wireIn [0], .seqTurn] } = [] := ⟨rfl, rfl, rfl⟩
/-- An ended run, with bytes still to arrive, and with nothing more to come. -/
theorem witness_RunEnded :
    RunEnded { scripted ⟨0, []⟩ with script := [], inputs := [.wireIn [0xAA], .seqTurn] } ∧
    RunEnded { scripted ⟨0, []⟩ with script := [], seqPhase := .busy } ∧
    State.later { scripted ⟨0, []⟩ with script := [], seqPhase := .busy } = .repeating [] := by
  refine ⟨⟨rfl, rfl, by decide, rfl, rfl, ?_⟩, ⟨rfl, rfl, by decide, rfl, rfl, ?_⟩, rfl⟩ <;> decide
theorem witness_SequencerEightSteps : portFree ready ∧ ready.params.seqMode = .auto ∧ ready.seqPhase = .issue ∧
    ready.initDone = true ∧ State.seqPhase { ready with seqPhase := .busy } = .busy ∧ cold.seqPhase = .stopped :=
  ⟨⟨rfl, rfl⟩, rfl, rfl, rfl, rfl, rfl⟩
theorem witness_Script : portFree (scripted ⟨0x80000000, []⟩) ∧ (scripted ⟨0x80000000, []⟩).params.seqMode = .script ∧
    (scripted ⟨0x80000000, []⟩).script = ⟨0x80000000, []⟩ :: [] ∧ (scripted ⟨0x80000000, []⟩).seqPhase = .issue ∧
    State.script { scripted ⟨0x80000000, []⟩ with script := [] } = [] ∧
    State.seqPhase { scripted ⟨0x80000000, []⟩ with seqPhase := .busy } = .busy ∧
    State.script { scripted ⟨0x80000000, []⟩ with seqPhase := .busy } ≠ [] :=
  ⟨⟨rfl, rfl⟩, rfl, rfl, rfl, rfl, rfl, by decide⟩
/-- R94: after the script's last command SEQ takes no further step. -/
theorem test_script_over : next (step { scripted ⟨0, []⟩ with script := [], seqPhase := .busy })
    (fun t => decide (t = { scripted ⟨0, []⟩ with script := [], seqPhase := .busy })) = true := by decide
theorem witness_SeqStepMoves : next (step { ready with seqPhase := .busy }) (fun t => decide (t.seqStep ≠ .step1)) = true ∧
    next (step { cold with seqStep := .step5, inputs := [.host ⟨0x10000000, []⟩] })
      (fun t => decide (t.seqStep ≠ .step5)) = true := by decide
theorem witness_PollingCycle : ready.initDone = true ∧ portFree ready ∧ alone ready ∧
    ready.params.seqMode = .auto ∧ 1 ≤ ready.params.txPollMax ∧ ready.seqPhase = .issue ∧ ready.seqStep = .step1 :=
  ⟨rfl, ⟨rfl, rfl⟩, ⟨rfl, rfl⟩, rfl, by decide, rfl, rfl⟩
theorem witness_LineWritten : next (step { ready with inputs := [.host ⟨0x40000000, []⟩] }) (fun t => t.mem != ready.mem) =
    true := by decide
theorem witness_Counters : (∃ t, step ready = .next t) ∧
    ∀ p (idx : BitVec 3), ready.nextMove.1 = .host p → decodeCommand p ≠ .ok (.diagRead idx) :=
  ⟨⟨_, rfl⟩, fun _ _ h => by cases h⟩

end Sys2Proof.Tests
end

section
/-! SUPPORT and PROOFS, family 10_state.md, part 1: every step keeps the invariant (O13), power-on has it, and what
follows for the line terminators in every reachable state (O14). One lemma per kind of step of Laws/Step.lean. -/

namespace Sys2Proof.Machine

/-! ### Line storage: writes that leave 0x00 in column 16 -/

/-- Column 16 of a line still reads 0x00 after a write inside one line that puts 0x00 there if it gets so far. -/
theorem writeLine_terminator {s : State} (hwf : s.mem.wf = true) {line : Byte} (hl : line.toNat ≤ 1) {col : Nat}
    {bs : List Byte} (hlen : col + bs.length ≤ 17) (h16 : bs.getD (16 - col) 0 = 0) {l : Byte}
    (h : s.lineByte l 16 = 0) : (s.writeLine line col bs).lineByte l 16 = 0 := by
  have hspan : lineAddr line col + bs.length ≤ storeSize := by simp only [lineAddr, lineCap, storeSize]; omega
  rw [State.lineByte, writeLine_mem, readByte_writeRange hwf _ _ hspan]
  split_ifs with hin
  · have : lineAddr l 16 - lineAddr line col = 16 - col := by simp only [lineAddr, lineCap] at hin ⊢; omega
    rw [this, h16]
  · exact h

/-- A write inside one line that leaves 0x00 in its column 16 keeps the invariant (10_state.md R21). -/
theorem Invariant.writeLine {s : State} (h : Invariant s) {line : Byte} (hl : line.toNat ≤ 1) {col : Nat}
    {bs : List Byte} (hlen : col + bs.length ≤ 17) (h16 : bs.getD (16 - col) 0 = 0) :
    Invariant (s.writeLine line col bs) :=
  { h with
    memWf := writeRange_wf h.memWf _ _ (by simp only [lineAddr, lineCap, storeSize]; omega)
    terminator0 := writeLine_terminator h.memWf hl hlen h16 h.terminator0
    terminator1 := writeLine_terminator h.memWf hl hlen h16 h.terminator1 }

/-- SET_LINE_AT ends before column 16 (40_line_api.md R64). -/
theorem length_setLineAtBytes_le (tail : SetAtTail) (col : Nat) (text : List Byte) :
    (setLineAtBytes tail col text).length ≤ 16 - col := by
  rw [length_setLineAtBytes]
  cases tail
  · exact Nat.min_le_right _ _
  · exact Nat.le_refl _

/-- A signed column that is not negative is the number its bits spell. -/
theorem toNat_lt_of_toInt_lt {col : BitVec 8} (h0 : 0 ≤ col.toInt) (hw : col.toInt < 16) : col.toNat < 16 := by
  rw [BitVec.toInt_eq_toNat_cond] at h0 hw
  split at hw <;> omega

/-! ### The frame that ENCODE_SEND snapshots -/

theorem frameSelector_le {line : Byte} (hl : line.toNat ≤ 1) (backlight : Bool) :
    (frameSelector line backlight).toNat ≤ 3 := by
  cases backlight <;> simp [frameSelector] <;> omega

/-- The frame law of 41_frame_encoder.md R77: selector, text and checksum sum to 0. -/
theorem sum8_checksummed (sel : Byte) (text : List Byte) : sum8 (sel :: text ++ [checksum sel text]) = 0 := by
  rw [sum8_append, checksum]
  simp [sum8]

/-- `Frame(l, bl, L)` of a line in range is a whole outbound frame. -/
theorem isOutFrame_frame {line : Byte} (hl : line.toNat ≤ 1) (backlight : Bool) (store : List Byte) :
    IsOutFrame (frame line backlight store) :=
  ⟨length_frame _ _ _, rfl, frameSelector_le hl backlight, sum8_checksummed _ _⟩

/-! ### One lemma per kind of step -/

/-- The invariant does not read which moves are to come. -/
theorem Invariant.withMoves {s : State} (h : Invariant s) (l : List Input) (n : Nat) :
    Invariant { s with inputs := l, drawn := n } := { h with }

theorem absurd_before_init {s : State} {P : Prop} (h1 : s.initDone = true) (h0 : s.initDone = false) : P := by
  rw [h1] at h0; cases h0

/-- After INIT the invariant does not say whether SEQ is at a command or about to issue one. -/
theorem Invariant.markBusy {s : State} (h : Invariant s) (h1 : s.initDone = true) :
    Invariant { s with seqPhase := .busy } :=
  { h with
    beforeInit := absurd_before_init h1
    afterInit := fun _ => nofun }

theorem Invariant.bump {s : State} (h : Invariant s) (d : DiagId) : Invariant (s.bump d) := by
  rw [bump_eq]; exact { h with }

/-- A host command keeps the invariant. -/
theorem HostCase.keeps_invariant {i : Instr} {s t : State} (h : Invariant s) (hc : HostCase i s t) : Invariant t := by
  cases hc with
  | init port d hi h0 =>
    exact { h with
      beforeInit := nofun
      afterInit := fun _ => nofun }
  | noop h1 => exact h.bump _
  | setLine line text hi h1 hl =>
    exact h.writeLine hl (by simp) (by rw [getD_setLineBytes, if_neg (by omega)])
  | setLineAt line col text hi h1 hl h0 hw =>
    have hcol := toNat_lt_of_toInt_lt h0 hw
    have hlen := length_setLineAtBytes_le s.params.setAtTail col.toNat text
    exact h.writeLine hl (by omega) (List.getD_eq_default _ _ hlen)
  | clearLine line hi h1 hl => exact h.writeLine hl (by simp) rfl
  | backlight on hi h1 => exact { h with }
  | respond v h1 => exact { h with }

/-- `TX_POLL_MAX` is at least 1 (00_scope.md R7), so a poll count of 0 is below it. -/
theorem Invariant.txPollMax_pos {s : State} (h : Invariant s) : 0 < s.params.txPollMax := h.admitted.1

/-- Before INIT neither machine of the sequencer port is at work. -/
theorem Invariant.initDone_of_portBusy {s : State} (h : Invariant s) (hb : s.portBusy = true) : s.initDone = true := by
  by_contra h0
  obtain ⟨-, ht, hr⟩ := h.beforeInit (by simpa using h0)
  rw [(portBusy_false_iff s).2 ⟨ht, hr⟩] at hb
  cases hb

/-- A micro-step of the command in progress keeps the invariant. -/
theorem MicroCase.keeps_invariant {s t : State} (h : Invariant s) (hb : s.portBusy = true) (hc : MicroCase s t) :
    Invariant t := by
  have h1 := h.initDone_of_portBusy hb
  have hpos := h.txPollMax_pos
  cases hc with
  | pollAgain ht hm =>
    have hp := h.txPollBusy ht
    exact { h with txPollLe := hp, txPollBusy := fun _ => by simp only; omega }
  | pollSend d ht hr =>
    have hbusy : s.txState ≠ .idle := by simp [ht]
    exact { h with
      txIdxBusy := fun _ => h.txIdxBusy hbusy
      txPollLe := h.txPollBusy ht
      txPollBusy := nofun
      txFrame := fun _ => h.txFrame hbusy
      onePort := .inr (h.onePort.resolve_left hbusy)
      beforeInit := absurd_before_init h1 }
  | sendMore ht hi =>
    have hbusy : s.txState ≠ .idle := by simp [ht]
    have hidx := h.txIdxBusy hbusy
    exact { h with
      txIdxLe := hidx
      txIdxBusy := fun _ => by simp only; omega
      txPollLe := Nat.zero_le _
      txPollBusy := fun _ => hpos
      txFrame := fun _ => h.txFrame hbusy
      onePort := .inr (h.onePort.resolve_left hbusy)
      beforeInit := absurd_before_init h1 }
  | sendLast d ht hi =>
    exact { h with
      txIdxLe := hi.le
      txIdxBusy := fun hn => absurd rfl hn
      txPollLe := Nat.zero_le _
      txPollBusy := nofun
      txFrame := fun hn => absurd rfl hn
      onePort := .inl rfl
      beforeInit := absurd_before_init h1 }
  | firstNone ht hr hq => exact { h with rxCntBusy := nofun, onePort := .inl ht, beforeInit := absurd_before_init h1 }
  | firstByte b rest ht hr hq =>
    exact { h with
      rxCntLe := show 1 ≤ 17 by decide
      rxCntBusy := fun _ => Nat.le_refl 1
      onePort := .inl ht
      beforeInit := absurd_before_init h1 }
  | collectEnd ht hr hq =>
    exact { h with rxCntBusy := fun _ => h.rxCntBusy (.inl hr), onePort := .inl ht, beforeInit := absurd_before_init h1 }
  | collectByte b rest ht hr hc hq =>
    have hle := h.rxCntLe
    exact { h with rxCntLe := by simp only; omega, rxCntBusy := fun _ => Nat.le_add_left 1 _ }
  | check d ht hr => exact { h with rxCntBusy := nofun, onePort := .inl ht, beforeInit := absurd_before_init h1 }
  | drainNone ht hr hq => exact { h with rxCntBusy := nofun, onePort := .inl ht, beforeInit := absurd_before_init h1 }
  | drainByte d b rest ht hr hq => exact { h with }

/-- A command the free sequencer port takes keeps the invariant. -/
theorem StartCase.keeps_invariant {i : Instr} {s t : State} (h : Invariant s) (hb : s.portBusy = false)
    (h1 : s.initDone = true) (hc : StartCase i s t) : Invariant t ∧ t.initDone = true := by
  obtain ⟨ht, hr⟩ := (portBusy_false_iff s).1 hb
  cases hc with
  | noop line hi hl => exact ⟨h.bump _, by simpa using h1⟩
  | snapshot line buf hi hl hbuf =>
    exact ⟨{ h with
      txIdxLe := Nat.zero_le _
      txIdxBusy := fun _ => show 0 < 22 by decide
      txPollLe := Nat.zero_le _
      txPollBusy := fun _ => h.txPollMax_pos
      txFrame := fun _ => hbuf ▸ isOutFrame_frame hl _ _
      onePort := .inr hr
      beforeInit := absurd_before_init h1 }, h1⟩
  | receive hi => exact ⟨{ h with rxCntBusy := nofun, onePort := .inl ht, beforeInit := absurd_before_init h1 }, h1⟩
  | wait ms hi => exact ⟨{ h with }, h1⟩

/-- An advance keeps the invariant: SEQ is busy only after INIT, and goes on to issue. -/
theorem Invariant.seqAdvance {s : State} (h : Invariant s) (hp : s.seqPhase = .busy) : Invariant (seqAdvance s) := by
  have h1 : s.initDone = true := by
    by_contra h0
    exact absurd (hp.symm.trans (h.beforeInit (by simpa using h0)).1) nofun
  obtain ⟨-, e⟩ | ⟨-, -, e⟩ | ⟨-, -, e⟩ := seqAdvance_cases s
  · rw [e]; exact { h with beforeInit := absurd_before_init h1, afterInit := fun _ => nofun }
  · rwa [e]
  · rw [e]; exact { h with beforeInit := absurd_before_init h1, afterInit := fun _ => nofun }

/-- The invariant is kept by every case of a step. -/
theorem StepCase.keeps_invariant {s t : State} (h : Invariant s) (hc : StepCase s t) : Invariant t := by
  cases hc with
  | host p l n i hm hd hp hc => exact hc.keeps_invariant (h.withMoves l n)
  | micro l n hb => exact ((microStep_case hb).keeps_invariant h hb).withMoves l n
  | stutter l n => exact h.withMoves l n
  | advance l n hb hp => exact (h.withMoves l n).seqAdvance hp
  | issue l n p script i hb h1 hp hn hd hc =>
    have hs : Invariant { s with inputs := l, drawn := n, script := script } := { h with }
    obtain ⟨ht, h1⟩ := hc.keeps_invariant hs hb h1
    exact ht.markBusy h1
  | arrival l n bytes hm => exact { h with }

/-- A power-on state meets the invariant (70_reset_and_hazards.md R109). -/
theorem PowerOn.invariant {s : State} (h : PowerOn s) : Invariant s := by
  obtain ⟨params, inputs, later, script, answers, rxq, hadm, rfl⟩ := h
  exact {
    admitted := hadm
    memWf := rfl
    terminator0 := rfl
    terminator1 := rfl
    txIdxLe := Nat.zero_le _
    txIdxBusy := fun hn => absurd rfl hn
    txPollLe := Nat.zero_le _
    txPollBusy := nofun
    txFrame := fun hn => absurd rfl hn
    rxCntLe := Nat.zero_le _
    rxCntBusy := nofun
    onePort := .inl rfl
    beforeInit := fun _ => ⟨rfl, rfl, rfl⟩
    afterInit := nofun }

theorem Reachable.invariant {s : State} (h : Reachable s) : Invariant s :=
  reachable_of_kept (fun _ => PowerOn.invariant) (fun _ _ hi hs => (step_case hs).keeps_invariant hi) h

/-- Settles O13: the inversion of a step, and one lemma per case of it. -/
theorem everyStepKeepsTheInvariant : Obligations.EveryStepKeepsTheInvariant := by
  unfold Obligations.EveryStepKeepsTheInvariant
  intro s t h hs
  exact (step_case hs).keeps_invariant h

/-- Settles O14: the terminators are part of the invariant, which every reachable state meets. -/
theorem lineTerminatorsStayZero : Obligations.LineTerminatorsStayZero := by
  unfold Obligations.LineTerminatorsStayZero
  intro s h
  exact ⟨h.invariant.terminator0, h.invariant.terminator1⟩

end Sys2Proof.Machine
end

section
/-! PROOFS, family 10_state.md, part 2: what no step changes (the parameters, and after INIT the channel, O53), the
state at power-on (O11), and the frame counter at its top (O35). -/

namespace Sys2Proof.Machine

/-- The parameters of 00_scope.md R7, `PORT` and the `ConfigureBaud` calls are the same in both states. -/
def SameChannel (s t : State) : Prop := t.params = s.params ∧ t.port = s.port ∧ t.baudCalls = s.baudCalls

theorem microStep_sameChannel (s : State) : SameChannel s (microStep s) := by
  rw [microStep_frame s]; exact ⟨rfl, rfl, rfl⟩

theorem seqAdvance_sameChannel (s : State) : SameChannel s (seqAdvance s) := by
  obtain ⟨-, e⟩ | ⟨-, -, e⟩ | ⟨-, -, e⟩ := seqAdvance_cases s <;> rw [e] <;> exact ⟨rfl, rfl, rfl⟩

theorem bump_sameChannel (s : State) (d : DiagId) : SameChannel s (s.bump d) :=
  ⟨bump_params s d, bump_port s d, bump_baudCalls s d⟩

/-- Of the host commands only INIT sets the channel, and INIT answers no next state once it has run. -/
theorem HostCase.channel {i : Instr} {s t : State} (hc : HostCase i s t) :
    t.params = s.params ∧ (s.initDone = true → SameChannel s t) := by
  cases hc with
  | init port d hi h0 => exact ⟨rfl, fun h1 => absurd_before_init h1 h0⟩
  | noop h1 => exact ⟨bump_params _ _, fun _ => bump_sameChannel _ _⟩
  | setLine line text hi h1 hl => exact ⟨rfl, fun _ => ⟨rfl, rfl, rfl⟩⟩
  | setLineAt line col text hi h1 hl h0 hw => exact ⟨rfl, fun _ => ⟨rfl, rfl, rfl⟩⟩
  | clearLine line hi h1 hl => exact ⟨rfl, fun _ => ⟨rfl, rfl, rfl⟩⟩
  | backlight on hi h1 => exact ⟨rfl, fun _ => ⟨rfl, rfl, rfl⟩⟩
  | respond v h1 => exact ⟨rfl, fun _ => ⟨rfl, rfl, rfl⟩⟩

/-- No command of the sequencer port sets the channel. -/
theorem StartCase.sameChannel {i : Instr} {s t : State} (hc : StartCase i s t) : SameChannel s t := by
  cases hc with
  | noop line hi hl => exact bump_sameChannel _ _
  | snapshot line buf hi hl hb => exact ⟨rfl, rfl, rfl⟩
  | receive hi => exact ⟨rfl, rfl, rfl⟩
  | wait ms hi => exact ⟨rfl, rfl, rfl⟩

theorem StepCase.channel {s t : State} (hc : StepCase s t) :
    t.params = s.params ∧ (s.initDone = true → SameChannel s t) := by
  have of_same {t : State} (h : SameChannel s t) : t.params = s.params ∧ (s.initDone = true → SameChannel s t) :=
    ⟨h.1, fun _ => h⟩
  cases hc with
  | host p l n i hm hd hp hc => exact hc.channel
  | micro l n hb => exact of_same (microStep_sameChannel s)
  | stutter l n => exact of_same ⟨rfl, rfl, rfl⟩
  | advance l n hb hp => exact of_same (seqAdvance_sameChannel _)
  | issue l n p script i hb h1 hp hn hd hc => exact of_same hc.sameChannel
  | arrival l n bytes hm => exact of_same ⟨rfl, rfl, rfl⟩

/-- Settles O53: of all steps only an INIT sets the channel, and it is refused once INIT has run. -/
theorem channelIsFixedAfterInit : Obligations.ChannelIsFixedAfterInit := by
  unfold Obligations.ChannelIsFixedAfterInit
  intro s t hs
  obtain ⟨hparams, hchannel⟩ := (step_case hs).channel
  exact ⟨hparams, fun h1 => (hchannel h1).2⟩

/-- Settles O11: line storage lists no byte at power-on, and an address not listed reads 0x00. -/
theorem powerOnLeavesEmptyLinesAndIdleMachines : Obligations.PowerOnLeavesEmptyLinesAndIdleMachines := by
  unfold Obligations.PowerOnLeavesEmptyLinesAndIdleMachines
  exact ⟨rfl, fun line c => readByte_nil (lineAddr line c), rfl, rfl, rfl, rfl⟩

/-- While a byte is to be sent, SEQ's turn is TX_SEND. -/
theorem seqTurn_of_send {s : State} (ht : s.txState = .send) : seqTurn s = .next (txSendStep s) := by
  simp [seqTurn, microStep, State.portBusy, ht]

/-- The 22nd byte of a frame counts the frame in `DIAG[7]`, wrapping, and nothing in the other counters
(41_frame_encoder.md R75, 10_state.md R22). -/
theorem txSendStep_last_diag {s : State} (hd : s.params.hasDiag = true) (hi : s.txIdx = 21) (i : Fin 8) :
    (txSendStep s).diag[i] = if i = 7 then s.diag[i] + 1 else s.diag[i] := by
  simp only [txSendStep, txSend_txIdx, hi, frameOutLen, Nat.reduceAdd, if_true]
  refine (bump_present ?_ .txFrames i).trans ?_
  · exact hd
  · rfl

/-- Settles O35: SEQ's turn is the TX_SEND that counts the frame, and 0xFFFFFFFF + 1 is 0 in 32 bits. -/
theorem frameCounterWraps : Obligations.FrameCounterWraps := by
  unfold Obligations.FrameCounterWraps
  intro s t hd ht hi htop hs
  rw [seqTurn_of_send ht] at hs
  injection hs with hs
  subst hs
  have hcount := txSendStep_last_diag hd hi
  refine ⟨?_, fun i hne => by rw [hcount i, if_neg hne]⟩
  calc (txSendStep s).diag[7] = s.diag[7] + 1 := hcount 7
    _ = 0 := by rw [htop]; rfl

end Sys2Proof.Machine
end

section
/-! PROOFS, family 10_state.md, part 3: the diagnostic counters are invisible (O54). Every operation of the model run on
a state with other counters (`withDiag`, present or absent) answers what it answers on the state itself, again with
other counters. Two predicates say so, for an operation that always goes on and for one that may refuse. -/

open Sys2Proof.Claims

namespace Sys2Proof.Machine

/-- An operation whose result shows the counters nowhere but in the counters. -/
def HidesCounters (f : State → State) : Prop :=
  ∀ (s : State) (present : Bool) (d : Vector Word 8), ∃ d', f (withDiag s present d) = withDiag (f s) present d'

/-- A meaning that goes on whatever the counters are, to a state that shows them nowhere but in the counters. -/
def GoesOnWithoutCounters (k : State → Result) : Prop :=
  ∀ (s t : State) (present : Bool) (d : Vector Word 8), k s = .next t →
    ∃ d', k (withDiag s present d) = .next (withDiag t present d')

/-- An operation that always goes on, as a meaning. -/
theorem HidesCounters.goesOn {f : State → State} (hf : HidesCounters f) :
    GoesOnWithoutCounters fun s => .next (f s) := by
  intro s t present d h
  injection h with h
  subst h
  obtain ⟨d', e⟩ := hf s present d
  exact ⟨d', congrArg _ e⟩

/-! ### Micro-steps -/

/-- Whether the counters exist or not, counting shows in them only (10_state.md R22). -/
theorem bump_hidesCounters (c : DiagId) : HidesCounters fun s => s.bump c := by
  intro s present d
  refine ⟨((withDiag s present d).bump c).diag, ?_⟩
  change (withDiag s present d).bump c = withDiag (s.bump c) present _
  rw [bump_eq, bump_eq s]; rfl

theorem txPollStep_hidesCounters : HidesCounters txPollStep := by
  intro s present d
  exact ⟨_, by rw [txPollStep_eq, txPollStep_eq s]; rfl⟩

theorem txSendStep_hidesCounters : HidesCounters txSendStep := by
  intro s present d
  exact ⟨_, by rw [txSendStep_eq, txSendStep_eq s]; rfl⟩

theorem rxFirstStep_hidesCounters : HidesCounters rxFirstStep := by
  intro s present d
  cases hq : s.rxq with
  | nil => exact ⟨d, by rw [rxFirstStep_none hq, rxFirstStep_none (s := withDiag s present d) hq]; rfl⟩
  | cons b rest => exact ⟨d, by rw [rxFirstStep_byte hq, rxFirstStep_byte (s := withDiag s present d) hq]; rfl⟩

theorem rxCollectStep_hidesCounters : HidesCounters rxCollectStep := by
  intro s present d
  by_cases hc : s.rxCnt = 17
  · exact ⟨d, by rw [rxCollectStep_full hc, rxCollectStep_full (s := withDiag s present d) hc]; rfl⟩
  · cases hq : s.rxq with
    | nil => exact ⟨d, by rw [rxCollectStep_none hq, rxCollectStep_none (s := withDiag s present d) hq]; rfl⟩
    | cons b rest =>
      exact ⟨d, by rw [rxCollectStep_byte hc hq, rxCollectStep_byte (s := withDiag s present d) hc hq]; rfl⟩

theorem rxCheckStep_hidesCounters : HidesCounters rxCheckStep := by
  intro s present d
  exact ⟨_, by rw [rxCheckStep_eq, rxCheckStep_eq s]; rfl⟩

theorem rxDrainStep_hidesCounters : HidesCounters rxDrainStep := by
  intro s present d
  cases hq : s.rxq with
  | nil => exact ⟨d, by rw [rxDrainStep_none hq, rxDrainStep_none (s := withDiag s present d) hq]; rfl⟩
  | cons b rest =>
    rw [rxDrainStep_byte hq, rxDrainStep_byte (s := withDiag s present d) hq]
    exact bump_hidesCounters .rxDrained { s with rxq := rest } present d

theorem microStep_hidesCounters : HidesCounters microStep := by
  intro s present d
  have ht : (withDiag s present d).txState = s.txState := rfl
  have hr : (withDiag s present d).rxState = s.rxState := rfl
  unfold microStep
  rw [ht, hr]
  split
  · exact txPollStep_hidesCounters s present d
  · exact txSendStep_hidesCounters s present d
  · split
    · exact ⟨d, rfl⟩
    · exact rxFirstStep_hidesCounters s present d
    · exact rxCollectStep_hidesCounters s present d
    · exact rxCheckStep_hidesCounters s present d
    · exact rxDrainStep_hidesCounters s present d

/-- An operation that neither reads nor writes the counters. -/
theorem hidesCounters_of_eq {f : State → State}
    (h : ∀ s present d, f (withDiag s present d) = withDiag (f s) present d) : HidesCounters f :=
  fun s present d => ⟨d, h s present d⟩

/-! ### Instructions -/

theorem goesOn_requireInit {k : State → Result} (hk : GoesOnWithoutCounters k) :
    GoesOnWithoutCounters fun s => requireInit s k := by
  intro s t present d h
  obtain ⟨h1, h⟩ := requireInit_next h
  obtain ⟨d', e⟩ := hk s t present d h
  exact ⟨d', (requireInit_of_done (s := withDiag s present d) h1 k).trans e⟩

/-- The test of the line and column operands comes before the meaning, and its no-op shows in the counters only
(40_line_api.md R61). -/
theorem goesOn_argReject_or {c : Prop} [Decidable c] {k : State → Result} (hk : GoesOnWithoutCounters k) :
    GoesOnWithoutCounters fun s => if c then argReject s else k s := by
  split
  · exact (bump_hidesCounters .argReject).goesOn
  · exact hk

theorem goesOn_onSequencerPort (i : Instr) {k : State → Result} (hk : GoesOnWithoutCounters k) :
    GoesOnWithoutCounters fun s => onSequencerPort i s k := by
  refine goesOn_requireInit fun s t present d h => ?_
  obtain ⟨hb, rfl⟩ | ⟨hb, h⟩ := whenPortFree_next h
  · have hb' : (withDiag s present d).portBusy = true := hb
    obtain ⟨d', e⟩ := microStep_hidesCounters (s.hold (.sequencer (encodePacket i))) present d
    exact ⟨d', by rw [whenPortFree, if_pos hb', ← e]; rfl⟩
  · obtain ⟨d', e⟩ := hk s t present d h
    exact ⟨d', (whenPortFree_of_free (s := withDiag s present d) hb _ k).trans e⟩

/-- The first INIT as one next state (40_line_api.md R62). -/
theorem execInit_first (port : Byte) {s : State} (h0 : s.initDone = false) :
    execInit port s = .next { s with
      port := port, baudCalls := s.baudCalls ++ [(port, s.params.baudRate)], backlight := false, buttons := 0,
      diag := if s.params.hasDiag = true then Vector.replicate 8 0 else s.diag, initDone := true,
      seqPhase := .issue, seqStep := if s.params.seqMode = .auto then .step1 else s.seqStep } := by
  cases hm : s.params.seqMode <;> by_cases hd : s.params.hasDiag = true <;>
    simp [execInit, State.configureBaud, h0, hm, hd]

/-- INIT clears the counters where they exist, and does the rest without them (40_line_api.md R62). -/
theorem goesOn_execInit (port : Byte) : GoesOnWithoutCounters (execInit port) := by
  intro s t present d h
  by_cases h1 : s.initDone = true
  · simp [execInit, h1] at h
  · have h0 : s.initDone = false := by simpa using h1
    rw [execInit_first port h0] at h
    injection h with h
    subst h
    exact ⟨_, execInit_first port (s := withDiag s present d) h0⟩

/-- What SEQ issues next does not depend on the counters. -/
theorem nextIssue_withDiag (s : State) (present : Bool) (d : Vector Word 8) :
    (withDiag s present d).nextIssue = s.nextIssue.map (Prod.map id (withDiag · present d)) := by
  have hm : (withDiag s present d).params.seqMode = s.params.seqMode := rfl
  have hs : (withDiag s present d).script = s.script := rfl
  unfold State.nextIssue
  rw [hm, hs]
  split
  · rfl
  · split <;> rfl

theorem issueNow_withDiag (s : State) (present : Bool) (d : Vector Word 8) :
    (withDiag s present d).issueNow = s.issueNow.map (Prod.map id (withDiag · present d)) := by
  have hb : (withDiag s present d).portBusy = s.portBusy := rfl
  have hp : (withDiag s present d).seqPhase = s.seqPhase := rfl
  unfold State.issueNow
  rw [hb, hp, nextIssue_withDiag]
  split
  · rfl
  · split <;> rfl

theorem goesOn_execFrameOut (line backlight : BitVec 1) (text : List Byte) :
    GoesOnWithoutCounters (execFrameOut line backlight text) := by
  intro s t present d h
  unfold execFrameOut at h ⊢
  rw [issueNow_withDiag]
  cases hn : s.issueNow with
  | none =>
    simp only [hn] at h
    injection h with h
    subst h
    exact ⟨d, rfl⟩
  | some x =>
    obtain ⟨p, u⟩ := x
    simp only [hn] at h
    split at h
    · injection h with h
      subst h
      exact ⟨d, if_pos ‹_›⟩
    · injection h with h
      subst h
      exact ⟨d, if_neg ‹_›⟩

theorem writeLine_withDiag (s : State) (present : Bool) (d : Vector Word 8) (line : Byte) (col : Nat)
    (bs : List Byte) : (withDiag s present d).writeLine line col bs = withDiag (s.writeLine line col bs) present d := rfl

/-- Every instruction but DIAG_READ. -/
theorem goesOn_exec {i : Instr} (hi : ∀ idx, i ≠ .diagRead idx) : GoesOnWithoutCounters (exec i) := by
  have plain {f : State → State} (h : ∀ s present d, f (withDiag s present d) = withDiag (f s) present d) :
      GoesOnWithoutCounters fun s => .next (f s) := (hidesCounters_of_eq h).goesOn
  cases i with
  | init port => exact goesOn_execInit port
  | setLine line text => exact goesOn_requireInit (goesOn_argReject_or (plain fun _ _ _ => writeLine_withDiag ..))
  | setLineAt line col text => exact goesOn_requireInit (goesOn_argReject_or (plain fun _ _ _ => writeLine_withDiag ..))
  | clearLine line => exact goesOn_requireInit (goesOn_argReject_or (plain fun _ _ _ => writeLine_withDiag ..))
  | setBacklight on => exact goesOn_requireInit (plain fun _ _ _ => rfl)
  | getButtons => exact goesOn_requireInit (plain fun _ _ _ => rfl)
  | encodeSend line => exact goesOn_onSequencerPort _ (goesOn_argReject_or (plain fun _ _ _ => rfl))
  | tryReceive => exact goesOn_onSequencerPort _ (plain fun _ _ _ => rfl)
  | wait ms => exact goesOn_onSequencerPort _ (plain fun _ _ _ => rfl)
  | diagRead idx => exact absurd rfl (hi idx)
  | frameOut line backlight text => exact goesOn_execFrameOut line backlight text
  | frameIn x b c => exact plain fun _ _ _ => rfl

/-! ### Moves -/

/-- Only DIAG_READ is absent in a block without the counters (30_encoding.md R57). -/
theorem absentCommand_of_ne {i : Instr} (hi : ∀ idx, i ≠ .diagRead idx) (p : Params) : absentCommand p i = false := by
  cases i with
  | diagRead idx => exact absurd rfl (hi idx)
  | _ => rfl

/-- A delivered command, unless it is a DIAG_READ of the host port. -/
theorem goesOn_deliver {port : Port} {p : Packet}
    (hp : port = .host → ∀ idx, decodeCommand p ≠ .ok (.diagRead idx)) : GoesOnWithoutCounters (deliver port p) := by
  intro s t present d h
  obtain ⟨i, hd, -, hport, h⟩ := deliver_next h
  have hi : ∀ idx, i ≠ .diagRead idx := by
    rintro idx rfl
    exact hp hport.symm idx hd
  obtain ⟨d', e⟩ := goesOn_exec hi s t present d h
  exact ⟨d', by simp only [deliver, hd, absentCommand_of_ne hi, hport, ne_eq, not_true_eq_false, if_false]; exact e⟩

theorem goesOn_seqIssue : GoesOnWithoutCounters seqIssue := by
  intro s t present d h
  unfold seqIssue at h ⊢
  rw [nextIssue_withDiag]
  cases hn : s.nextIssue with
  | none =>
    simp only [hn] at h
    injection h with h
    subst h
    exact ⟨d, rfl⟩
  | some x =>
    obtain ⟨p, u⟩ := x
    simp only [hn] at h
    obtain ⟨s', hd, rfl⟩ := markBusy_next h
    obtain ⟨d', e⟩ := goesOn_deliver (port := .sequencer) nofun u s' present d hd
    exact ⟨d', congrArg markBusy e⟩

theorem seqAdvance_withDiag (s : State) (present : Bool) (d : Vector Word 8) :
    seqAdvance (withDiag s present d) = withDiag (seqAdvance s) present d := by
  have hm : (withDiag s present d).params.seqMode = s.params.seqMode := rfl
  have hs : (withDiag s present d).script = s.script := rfl
  unfold seqAdvance
  rw [hm, hs]
  split
  · rfl
  · split <;> rfl

theorem goesOn_seqTurn : GoesOnWithoutCounters seqTurn := by
  intro s t present d h
  have hb : (withDiag s present d).portBusy = s.portBusy := rfl
  have hp : (withDiag s present d).seqPhase = s.seqPhase := rfl
  unfold seqTurn
  rw [hb, hp]
  obtain ⟨h0, rfl⟩ | ⟨h0, h1, rfl⟩ | ⟨h0, h1, rfl⟩ | ⟨h0, h1, h⟩ := seqTurn_next h
  · obtain ⟨d', e⟩ := microStep_hidesCounters s present d
    exact ⟨d', by rw [if_pos h0, e]⟩
  · exact ⟨d, by simp [h0, h1]⟩
  · exact ⟨d, by simp [h0, h1, seqAdvance_withDiag]⟩
  · obtain ⟨d', e⟩ := goesOn_seqIssue s t present d h
    exact ⟨d', by simpa [h0, h1] using e⟩

theorem issuesNow_withDiag (s : State) (present : Bool) (d : Vector Word 8) (p : Packet) :
    (withDiag s present d).issuesNow p = s.issuesNow p := by
  unfold State.issuesNow
  rw [issueNow_withDiag]
  cases s.issueNow <;> rfl

theorem goesOn_offer (p : Packet) : GoesOnWithoutCounters (offer p) := by
  intro s t present d h
  unfold offer at h ⊢
  split at h
  · rename_i u hu
    obtain ⟨d1, e1⟩ := goesOn_deliver (port := .sequencer) nofun s u present d hu
    obtain ⟨d', e⟩ := goesOn_seqTurn _ t present d h
    refine ⟨d', ?_⟩
    simp only [e1, issuesNow_withDiag]
    rw [← e]
    split <;> rfl
  · cases h
  · cases h

/-- Every move but HOST's DIAG_READ. -/
theorem goesOn_takeInput {e : Input} (he : ∀ p idx, e = .host p → decodeCommand p ≠ .ok (.diagRead idx)) :
    GoesOnWithoutCounters (takeInput e) := by
  cases e with
  | host p => exact goesOn_deliver fun _ idx => he p idx rfl
  | sequencer p => exact goesOn_offer p
  | seqTurn => exact goesOn_seqTurn
  | wireIn bytes =>
    intro s t present d h
    simp only [takeInput] at h ⊢
    split at h
    · obtain ⟨x, b, c, rfl, -⟩ := decodeWireIn_ok ‹_›
      exact goesOn_exec (fun _ => Instr.noConfusion) s t present d h
    · injection h with h
      subst h
      exact ⟨d, rfl⟩
  | wireOut bytes =>
    intro s t present d h
    simp only [takeInput] at h ⊢
    split at h
    · obtain ⟨l, b, text, rfl, -⟩ := decodeWireOut_ok ‹_›
      exact goesOn_exec (fun _ => Instr.noConfusion) s t present d h
    · cases h

theorem nextMove_withDiag (s : State) (present : Bool) (d : Vector Word 8) :
    (withDiag s present d).nextMove = s.nextMove.map id (withDiag · present d) := by
  have hi : (withDiag s present d).inputs = s.inputs := rfl
  have hl : (withDiag s present d).later = s.later := rfl
  unfold State.nextMove
  rw [hi, hl]
  split
  · rfl
  · split <;> rfl

/-- Settles O54: the move taken is the same, and every move but a DIAG_READ goes on without the counters. -/
theorem countersChangeNothingElse : Obligations.CountersChangeNothingElse := by
  unfold Obligations.CountersChangeNothingElse
  intro s t present d hs hread
  unfold step at hs ⊢
  rw [nextMove_withDiag]
  exact goesOn_takeInput hread _ t present d hs

end Sys2Proof.Machine
end

section
/-! PROOFS, family 20_memory.md, part 1: what each kind of step of Laws/Step.lean leaves unchanged, said once as an
equation on the whole state, and what follows for HOST: no host command reaches the frame in progress (O32), and only its
text commands write line storage (O51). -/

namespace Sys2Proof.Machine

/-! ### The frame of each kind of step -/

/-- What no host-port command touches: the two machines of the sequencer port, the streams, the moves and the script. -/
theorem HostCase.frame {i : Instr} {s t : State} (hc : HostCase i s t) :
    t = { s with
      port := t.port, baudCalls := t.baudCalls, backlight := t.backlight, buttons := t.buttons, diag := t.diag,
      initDone := t.initDone, seqPhase := t.seqPhase, seqStep := t.seqStep, mem := t.mem, resp := t.resp } := by
  cases hc with
  | noop h1 => rw [bump_eq]
  | _ => rfl

/-- What the start of a command on the sequencer port leaves: all but the registers of the machine it starts and
`WAIT_MS`. -/
theorem StartCase.frame {i : Instr} {s t : State} (hc : StartCase i s t) :
    t = { s with
      diag := t.diag, txBuf := t.txBuf, txIdx := t.txIdx, txPoll := t.txPoll, txState := t.txState,
      rxState := t.rxState, waitMs := t.waitMs } := by
  cases hc with
  | noop line hi hl => rw [bump_eq]
  | _ => rfl

/-- An advance touches `SEQ_STEP` and `SEQ_PHASE` only. -/
theorem seqAdvance_frame (s : State) :
    seqAdvance s = { s with seqStep := (seqAdvance s).seqStep, seqPhase := (seqAdvance s).seqPhase } := by
  obtain ⟨-, e⟩ | ⟨-, -, e⟩ | ⟨-, -, e⟩ := seqAdvance_cases s <;> rw [e]

/-! ### HOST -/

/-- A step whose move is HOST's runs the host command delivered, on the state with the move taken. -/
theorem step_host {s t : State} {p : Packet} (hm : s.nextMove.1 = .host p) (h : step s = .next t) :
    ∃ i, HostCase i s.nextMove.2 t := by
  unfold step at h
  rw [hm] at h
  obtain ⟨i, -, -, hport, he⟩ := deliver_next h
  exact ⟨i, exec_host hport he⟩

/-- Settles O32: a host command has the frame of its cases, and taking the move changes the moves to come only. -/
theorem hostCommandsLeaveTheFrameInProgress : Obligations.HostCommandsLeaveTheFrameInProgress := by
  unfold Obligations.HostCommandsLeaveTheFrameInProgress
  intro s t p hm hs
  obtain ⟨i, hc⟩ := step_host hm hs
  rw [hc.frame, nextMove_eq]
  exact ⟨rfl, rfl, rfl, rfl, rfl, rfl, rfl, rfl, rfl⟩

/-- A text command on an existing line: SET_LINE, SET_LINE_AT with a column in range, or CLEAR_LINE (20_memory.md R30). -/
def WritesLine (i : Instr) : Prop :=
  (∃ line text, i = .setLine line text ∧ line.toNat ≤ 1) ∨
    (∃ line col text, i = .setLineAt line col text ∧ line.toNat ≤ 1 ∧ 0 ≤ col.toInt ∧ col.toInt < 16) ∨
    (∃ line, i = .clearLine line ∧ line.toNat ≤ 1)

/-- INIT does not write the lines, and of the other host commands only a text command does (10_state.md R20). -/
theorem HostCase.mem_eq_or_writesLine {i : Instr} {s t : State} (hc : HostCase i s t) :
    t.mem = s.mem ∨ (s.initDone = true ∧ WritesLine i) := by
  cases hc with
  | init port d hi h0 => exact .inl rfl
  | noop h1 => exact .inl (bump_mem _ _)
  | setLine line text hi h1 hl => exact .inr ⟨h1, .inl ⟨line, text, hi, hl⟩⟩
  | setLineAt line col text hi h1 hl h0 hw => exact .inr ⟨h1, .inr (.inl ⟨line, col, text, hi, hl, h0, hw⟩)⟩
  | clearLine line hi h1 hl => exact .inr ⟨h1, .inr (.inr ⟨line, hi, hl⟩)⟩
  | backlight on hi h1 => exact .inl rfl
  | respond v h1 => exact .inl rfl

theorem StepCase.mem_eq_or_writesLine {s t : State} (hc : StepCase s t) :
    t.mem = s.mem ∨
      ∃ p i, s.nextMove.1 = .host p ∧ decodeCommand p = .ok i ∧ s.initDone = true ∧ WritesLine i := by
  cases hc with
  | host p l n i hm hd hp hc => exact hc.mem_eq_or_writesLine.imp_right fun ⟨h1, hw⟩ => ⟨p, i, hm, hd, h1, hw⟩
  | micro l n hb => exact .inl (by rw [microStep_frame])
  | stutter l n => exact .inl rfl
  | advance l n hb hp => exact .inl (by rw [seqAdvance_frame])
  | issue l n p script i hb h1 hp hn hd hc => exact .inl (by rw [hc.frame])
  | arrival l n bytes hm => exact .inl rfl

/-- Settles O51: every step but a host text command on an existing line leaves line storage. -/
theorem onlyHostTextCommandsWriteLines : Obligations.OnlyHostTextCommandsWriteLines := by
  unfold Obligations.OnlyHostTextCommandsWriteLines
  intro s t hs hne
  exact (step_case hs).mem_eq_or_writesLine.resolve_left hne

end Sys2Proof.Machine
end

section
/-! PROOFS, family 20_memory.md, part 2: the two streams (O56), and that what was sent and answered is never undone
(O52). -/

namespace Sys2Proof.Machine

/-- Every step but a micro-step of the command in progress leaves `TXLOG`, and at most appends to `RXQ`. -/
theorem StepCase.micro_or_streams {s t : State} (hc : StepCase s t) :
    (s.portBusy = true ∧ t.txLog = (microStep s).txLog ∧ t.rxq = (microStep s).rxq) ∨
    (t.txLog = s.txLog ∧ ∃ bytes, t.rxq = s.rxq ++ bytes) := by
  have same {t : State} (hlog : t.txLog = s.txLog) (hq : t.rxq = s.rxq) :
      t.txLog = s.txLog ∧ ∃ bytes, t.rxq = s.rxq ++ bytes := ⟨hlog, [], by rw [hq, List.append_nil]⟩
  cases hc with
  | host p l n i hm hd hp hc => exact .inr (same (by rw [hc.frame]) (by rw [hc.frame]))
  | micro l n hb => exact .inl ⟨hb, rfl, rfl⟩
  | stutter l n => exact .inr (same rfl rfl)
  | advance l n hb hp => exact .inr (same (by rw [seqAdvance_frame]) (by rw [seqAdvance_frame]))
  | issue l n p script i hb h1 hp hn hd hc => exact .inr (same (by rw [hc.frame]) (by rw [hc.frame]))
  | arrival l n bytes hm => exact .inr ⟨rfl, bytes, rfl⟩

/-- Of the micro-steps only TX_SEND appends to `TXLOG`, the byte at `TXIDX` (41_frame_encoder.md R75). -/
theorem MicroCase.txLog_cases {s t : State} (hc : MicroCase s t) :
    t.txLog = s.txLog ∨ (s.txState = .send ∧ t.txLog = s.txLog ++ [(s.txBuf[s.txIdx]?).getD 0]) := by
  cases hc with
  | sendMore ht hi => exact .inr ⟨ht, rfl⟩
  | sendLast d ht hi => exact .inr ⟨ht, rfl⟩
  | _ => exact .inl rfl

/-- A micro-step takes the head of `RXQ`, in RX_FIRST, RX_COLLECT or RX_DRAIN, or leaves it
(42_receive_assembler.md R79, R80, R83). -/
theorem MicroCase.rxq_cases {s t : State} (hc : MicroCase s t) :
    t.rxq = s.rxq ∨
      (s.txState = .idle ∧ (s.rxState = .first ∨ s.rxState = .collect ∨ s.rxState = .drain) ∧
        ∃ b, s.rxq = b :: t.rxq) := by
  cases hc with
  | firstByte b rest ht hr hq => exact .inr ⟨ht, .inl hr, b, hq⟩
  | collectByte b rest ht hr hc hq => exact .inr ⟨ht, .inr (.inl hr), b, hq⟩
  | drainByte d b rest ht hr hq => exact .inr ⟨ht, .inr (.inr hr), b, hq⟩
  | _ => exact .inl rfl

/-- A step leaves `TXLOG`, or is a TX_SEND and appends the byte at `TXIDX`. -/
theorem StepCase.txLog_cases {s t : State} (hc : StepCase s t) :
    t.txLog = s.txLog ∨ (s.txState = .send ∧ t.txLog = s.txLog ++ [(s.txBuf[s.txIdx]?).getD 0]) := by
  obtain ⟨hb, hlog, -⟩ | ⟨hlog, -⟩ := hc.micro_or_streams
  · rw [hlog]; exact (microStep_case hb).txLog_cases
  · exact .inl hlog

/-- A step at most appends to `RXQ`, or is a receive micro-step and takes the head. -/
theorem StepCase.rxq_cases {s t : State} (hc : StepCase s t) :
    (∃ bytes, t.rxq = s.rxq ++ bytes) ∨
      (s.txState = .idle ∧ (s.rxState = .first ∨ s.rxState = .collect ∨ s.rxState = .drain) ∧
        ∃ b, s.rxq = b :: t.rxq) := by
  obtain ⟨hb, -, hq⟩ | ⟨-, hq⟩ := hc.micro_or_streams
  · rw [hq]; exact (microStep_case hb).rxq_cases.imp_left fun e => ⟨[], by rw [e, List.append_nil]⟩
  · exact .inl hq

/-- Settles O56: `TXLOG` changes only where TX_SEND appends, and a queue that bytes were appended to is no shorter. -/
theorem onlyMicroStepsUseTheStreams : Obligations.OnlyMicroStepsUseTheStreams := by
  unfold Obligations.OnlyMicroStepsUseTheStreams
  intro s t hs
  have hc := step_case hs
  refine ⟨fun hne => ?_, fun hlt => hc.rxq_cases.resolve_left ?_⟩
  · obtain ⟨hsend, hlog⟩ := hc.txLog_cases.resolve_left hne
    exact ⟨hsend, fun hidx => by rw [hlog, Vector.getElem?_eq_getElem hidx, Option.getD_some]⟩
  · rintro ⟨bytes, hq⟩
    rw [hq, List.length_append] at hlt
    omega

/-- A host command answers on `resp` at most once (30_encoding.md R51). -/
theorem HostCase.resp_grows {i : Instr} {s t : State} (hc : HostCase i s t) :
    ∃ vs, t.resp = s.resp ++ vs ∧ vs.length ≤ 1 := by
  cases hc with
  | respond v h1 => exact ⟨[v], rfl, Nat.le_refl 1⟩
  | _ => exact ⟨[], by simp⟩

/-- Only a host command answers on `resp`, and a step runs at most one. -/
theorem StepCase.resp_grows {s t : State} (hc : StepCase s t) : ∃ vs, t.resp = s.resp ++ vs ∧ vs.length ≤ 1 := by
  have same {t : State} (h : t.resp = s.resp) : ∃ vs, t.resp = s.resp ++ vs ∧ vs.length ≤ 1 := ⟨[], by simp [h]⟩
  cases hc with
  | host p l n i hm hd hp hc => exact hc.resp_grows
  | micro l n hb => exact same (by rw [microStep_frame])
  | stutter l n => exact same rfl
  | advance l n hb hp => exact same (by rw [seqAdvance_frame])
  | issue l n p script i hb h1 hp hn hd hc => exact same (by rw [hc.frame])
  | arrival l n bytes hm => exact same rfl

/-- Settles O52: a step leaves `TXLOG` or appends one byte to it, and answers at most once. -/
theorem sentBytesAreNeverUndone : Obligations.SentBytesAreNeverUndone := by
  unfold Obligations.SentBytesAreNeverUndone
  intro s t hs
  have hc := step_case hs
  refine ⟨?_, hc.resp_grows⟩
  obtain hlog | ⟨-, hlog⟩ := hc.txLog_cases
  · exact ⟨[], by rw [hlog, List.append_nil]⟩
  · exact ⟨_, hlog⟩

end Sys2Proof.Machine
end

section
/-! PROOFS, family 20_memory.md, part 3: from a free sequencer port only SEQ's issue starts a command (O58). -/

open Sys2Proof.Claims

namespace Sys2Proof.Machine

/-- A WAIT decodes from its own word: the opcode is the top 4 bits, the delay the other 28 (30_encoding.md R52, R56). -/
theorem decodeCommand_wait (ms : Millis) : decodeCommand (encodePacket (.wait ms)) = .ok (.wait ms) := by
  have hop : (encodeWord (.wait ms)).extractLsb' 28 4 = 0x9#4 := BitVec.extractLsb'_append_eq_left
  have hms : (encodeWord (.wait ms)).extractLsb' 0 28 = ms := BitVec.extractLsb'_append_eq_right
  have hrow : encodeWord (.wait ms) &&& 0xF0000000 = 0x90000000 := (Laws.FitsRow.wait ms).1
  simpa [decodeCommand, encodePacket, hop, hms, checkRow] using hrow

/-- Each row of the cycle decodes from its own word (43_polling_sequencer.md R88). -/
theorem decodeCommand_cycleCommand (p : Params) (k : SeqStep) :
    decodeCommand (encodePacket (cycleCommand p k)) = .ok (cycleCommand p k) := by
  cases k with
  | step1 | step3 | step5 | step7 => simp only [cycleCommand]; decide
  | step2 | step4 | step6 | step8 => exact decodeCommand_wait _

/-- The packet SEQ issues next, decoded, is the command its next micro-step issues. -/
theorem NextIssue.issues {s : State} {p : Packet} {left : List Packet} {i : Instr} (hn : NextIssue s p left)
    (hfree : portFree s) (hphase : s.seqPhase = .issue) (hd : decodeCommand p = .ok i) : issues s i left := by
  refine ⟨hfree, hphase, ?_⟩
  obtain ⟨hmode, rfl, hleft⟩ | ⟨hmode, hscript⟩ := hn
  · rw [decodeCommand_cycleCommand] at hd
    injection hd with hd
    exact .inl ⟨hmode, hd.symm, hleft⟩
  · exact .inr ⟨hmode, p, hscript, hd⟩

/-- No command is at work and no delay was set: the port is as free as before. -/
def StaysIdle (s t : State) : Prop := portFree t ∧ t.waitMs = s.waitMs

/-- Between the two states the command `i` started: ENCODE_SEND's snapshot of an existing line (41_frame_encoder.md R73),
TRY_RECEIVE's start (42_receive_assembler.md R78), or WAIT's delay (43_polling_sequencer.md R87). -/
def Started (i : Instr) (s t : State) : Prop :=
  (∃ line, i = .encodeSend line ∧ line.toNat ≤ 1 ∧ t.txState = .poll ∧ t.rxState = .idle ∧
      t.txBuf.toList = frame line s.backlight (s.lineStore line)) ∨
    (i = .tryReceive ∧ t.txState = .idle ∧ t.rxState = .first) ∨
    (∃ ms, i = .wait ms ∧ portFree t ∧ t.waitMs = ms)

/-- Of the commands the free port takes, only an ENCODE_SEND of a line out of range starts nothing. -/
theorem StartCase.idle_or_started {i : Instr} {s t : State} (hc : StartCase i s t) (hfree : portFree s) :
    StaysIdle s t ∨ Started i s t := by
  obtain ⟨ht, hr⟩ := hfree
  cases hc with
  | noop line hi hl =>
    exact .inl ⟨⟨(bump_txState _ _).trans ht, (bump_rxState _ _).trans hr⟩, bump_waitMs _ _⟩
  | snapshot line buf hi hl hb => exact .inr (.inl ⟨line, hi, hl, rfl, hr, hb⟩)
  | receive hi => exact .inr (.inr (.inl ⟨hi, ht, rfl⟩))
  | wait ms hi => exact .inr (.inr (.inr ⟨ms, hi, ⟨ht, hr⟩, rfl⟩))

/-- A step that leaves the states of both machines and `WAIT_MS` starts nothing. -/
theorem StaysIdle.of_eq {s t : State} (hfree : portFree s) (ht : t.txState = s.txState) (hr : t.rxState = s.rxState)
    (hw : t.waitMs = s.waitMs) : StaysIdle s t :=
  ⟨⟨ht.trans hfree.1, hr.trans hfree.2⟩, hw⟩

/-- From a free port, a step starts nothing or is SEQ's issue of the command it starts (20_memory.md R40). -/
theorem StepCase.idle_or_issue {s t : State} (hc : StepCase s t) (hfree : portFree s) :
    StaysIdle s t ∨
      (s.initDone = true ∧ t.seqPhase = .busy ∧ ∃ i, issues s i t.script ∧ Started i s t) := by
  cases hc with
  | host p l n i hm hd hp hc =>
    rw [hc.frame]
    exact .inl (.of_eq hfree rfl rfl rfl)
  | micro l n hb => rw [(portBusy_false_iff s).2 hfree] at hb; cases hb
  | stutter l n => exact .inl (.of_eq hfree rfl rfl rfl)
  | advance l n hb hp =>
    rw [seqAdvance_frame]
    exact .inl (.of_eq hfree rfl rfl rfl)
  | issue l n p script i hb h1 hp hn hd hc =>
    have hleft : _ = script := congrArg State.script hc.frame
    obtain hidle | hstart := hc.idle_or_started hfree
    · exact .inl hidle
    · exact .inr ⟨h1, rfl, i, hleft ▸ hn.issues hfree hp hd, hstart⟩
  | arrival l n bytes hm => exact .inl (.of_eq hfree rfl rfl rfl)

/-- Settles O58: a step that is no issue leaves the free port idle and `WAIT_MS` as it was. -/
theorem onlySequencerStartsCommands : Obligations.OnlySequencerStartsCommands := by
  unfold Obligations.OnlySequencerStartsCommands
  intro s t hs hfree hchange
  refine ((step_case hs).idle_or_issue hfree).resolve_left ?_
  rintro ⟨hidle, hwait⟩
  exact hchange.elim (· hidle) (· hwait)

end Sys2Proof.Machine
end

section
/-! PROOFS, family 30_encoding.md, part 1: the opcode map as a table. A command word is named by its opcode and passes the
mask and match of that row (`rowMask`, `rowMatch` of Laws/PerInstr.lean); from that the row-by-row statement (O4), and the
words that are refused as `Reserved` (O5). -/

open Sys2Proof.Laws.FitsRow (rowMask rowMatch)

namespace Sys2Proof.Machine

/-- The opcode of a word, bits 31:28 (30_encoding.md R52). -/
def opcode (w : Word) : BitVec 4 := w.extractLsb' 28 4

/-- The command an opcode names, its operands taken from the fields of R53; none for a reserved opcode (30_encoding.md
R57). -/
def commandOfOpcode (op : BitVec 4) (p : Packet) : Option Instr :=
  match op.toNat with
  | 0x1 => some (.init (p.word.extractLsb' 0 8))
  | 0x2 => some (.setLine (p.word.extractLsb' 16 8) p.text)
  | 0x3 => some (.setLineAt (p.word.extractLsb' 16 8) (p.word.extractLsb' 8 8) p.text)
  | 0x4 => some (.clearLine (p.word.extractLsb' 16 8))
  | 0x5 => some (.setBacklight (p.word.getLsbD 0))
  | 0x6 => some .getButtons
  | 0x7 => some (.encodeSend (p.word.extractLsb' 16 8))
  | 0x8 => some .tryReceive
  | 0x9 => some (.wait (p.word.extractLsb' 0 28))
  | 0xA => some (.diagRead (p.word.extractLsb' 0 3))
  | _ => none

/-! ### Decoding is the opcode's row and its test -/

theorem checkRow_ok_iff {w mask pattern : Word} {i j : Instr} :
    checkRow w mask pattern i = .ok j ↔ i = j ∧ w &&& mask = pattern := by
  unfold checkRow
  split <;> simp [*]

/-- A word decodes to a command exactly when its opcode names that command and the word passes the command's row. -/
theorem decodeCommand_ok_iff {p : Packet} {i : Instr} :
    decodeCommand p = .ok i ↔
      commandOfOpcode (opcode p.word) p = some i ∧ p.word &&& rowMask i = rowMatch i := by
  have row {j : Instr} {mask pattern : Word} (hmask : rowMask j = mask) (hmatch : rowMatch j = pattern) :
      checkRow p.word mask pattern j = .ok i ↔ some j = some i ∧ p.word &&& rowMask i = rowMatch i := by
    rw [checkRow_ok_iff, Option.some_inj, ← hmask, ← hmatch]
    exact and_congr_right fun hji => by rw [hji]
  have noRow : Except.error Reject.reservedOpcode = .ok i ↔ none = some i ∧ p.word &&& rowMask i = rowMatch i := by
    simp
  unfold decodeCommand commandOfOpcode opcode
  dsimp only
  generalize (p.word.extractLsb' 28 4).toNat = op
  obtain _ | _ | _ | _ | _ | _ | _ | _ | _ | _ | _ | _ := op
  · exact noRow
  on_goal 11 => exact noRow
  all_goals exact row rfl rfl

/-- The mask of a command's row covers bits 31:28, and its match has the command's opcode there. -/
theorem opcode_of_command {op : BitVec 4} {p : Packet} {i : Instr} (hi : commandOfOpcode op p = some i) :
    opcode (rowMask i) = BitVec.allOnes 4 ∧ opcode (rowMatch i) = op := by
  unfold commandOfOpcode at hi
  split at hi
  case h_11 => cases hi
  all_goals
    rename_i hop
    cases hi
    exact ⟨by simp [rowMask, opcode], BitVec.eq_of_toNat_eq (by simp [rowMatch, opcode, hop])⟩

/-- Passing the row of a command is decoding to it. -/
theorem matches_iff_decodes {p : Packet} {i : Instr} {mask pattern : Word} (op : BitVec 4)
    (hi : commandOfOpcode op p = some i) (hmask : rowMask i = mask) (hmatch : rowMatch i = pattern) :
    p.word &&& mask = pattern ↔ decodeCommand p = .ok i := by
  obtain ⟨hcover, hop⟩ := opcode_of_command hi
  subst hmask hmatch
  rw [decodeCommand_ok_iff, iff_and_self]
  intro hrow
  have hword : opcode p.word = op := by
    calc opcode p.word = opcode p.word &&& opcode (rowMask i) := by rw [hcover, BitVec.and_allOnes]
      _ = opcode (p.word &&& rowMask i) := BitVec.extractLsb'_and.symm
      _ = op := by rw [hrow, hop]
  rw [hword, hi]

/-- The same for a row whose mask is every bit: the word is the match itself. -/
theorem word_eq_iff_decodes {p : Packet} {i : Instr} {pattern : Word} (op : BitVec 4)
    (hi : commandOfOpcode op p = some i) (hmask : rowMask i = BitVec.allOnes 32) (hmatch : rowMatch i = pattern) :
    p.word = pattern ↔ decodeCommand p = .ok i := by
  rw [← matches_iff_decodes op hi hmask hmatch, BitVec.and_allOnes]

/-! ### What is refused as `Reserved` -/

/-- A word that decodes to nothing, or only to a command the block does not have, is refused as `Reserved`
(60_exceptions.md R97). -/
theorem deliver_reserved {port : Port} {p : Packet} {s : State}
    (h : ∀ i, decodeCommand p = .ok i → absentCommand s.params i = true) : deliver port p s = .refused .reserved := by
  unfold deliver
  split
  · rfl
  · rename_i i hd
    rw [if_pos (h i hd)]

theorem deliver_of_not_decodes {p : Packet} (h : ∀ i, decodeCommand p ≠ .ok i) (port : Port) (s : State) :
    deliver port p s = .refused .reserved :=
  deliver_reserved fun i hd => absurd hd (h i)

/-- Settles O4: each command's row covers the opcode, and its match has the command's opcode. -/
theorem commandWordsFollowTheOpcodeMap : Obligations.CommandWordsFollowTheOpcodeMap := by
  unfold Obligations.CommandWordsFollowTheOpcodeMap
  intro p
  exact ⟨matches_iff_decodes 0x1 rfl rfl rfl, matches_iff_decodes 0x2 rfl rfl rfl,
    matches_iff_decodes 0x3 rfl rfl rfl, matches_iff_decodes 0x4 rfl rfl rfl, matches_iff_decodes 0x5 rfl rfl rfl,
    word_eq_iff_decodes 0x6 rfl rfl rfl, matches_iff_decodes 0x7 rfl rfl rfl, word_eq_iff_decodes 0x8 rfl rfl rfl,
    matches_iff_decodes 0x9 rfl rfl rfl, matches_iff_decodes 0xA rfl rfl rfl, deliver_of_not_decodes⟩

/-- A match has no bit below the opcode: the fields a row tests are zero (30_encoding.md R52, R56). -/
theorem rowMatch_and_low (i : Instr) : rowMatch i &&& 0x0FFFFFFF = 0 := by
  cases i <;> simp [rowMatch]

/-- A word with a bit set in a field its command does not use decodes to nothing (30_encoding.md R57). -/
theorem not_decodes_of_unused {p : Packet} {op : BitVec 4} {i : Instr} {unused : Word} (hop : opcode p.word = op)
    (hi : commandOfOpcode op p = some i) (hunused : rowMask i &&& 0x0FFFFFFF = unused)
    (hset : p.word &&& unused ≠ 0) : ∀ j, decodeCommand p ≠ .ok j := by
  intro j hd
  obtain ⟨hj, hrow⟩ := decodeCommand_ok_iff.1 hd
  obtain rfl : i = j := Option.some_inj.1 (by rw [← hi, ← hj, hop])
  exact hset (by rw [← hunused, ← BitVec.and_assoc, hrow, rowMatch_and_low])

/-- A word whose opcode names no command decodes to nothing (30_encoding.md R57). -/
theorem not_decodes_of_reserved {p : Packet} (h : commandOfOpcode (opcode p.word) p = none) :
    ∀ j, decodeCommand p ≠ .ok j := by
  intro j hd
  rw [(decodeCommand_ok_iff.1 hd).1] at h
  cases h

theorem commandOfOpcode_above {op : BitVec 4} (h : 0xB ≤ op.toNat) (p : Packet) : commandOfOpcode op p = none := by
  unfold commandOfOpcode
  split
  case h_11 => rfl
  all_goals omega

/-- DIAG_READ is no command of a block without the counters (30_encoding.md R57). -/
theorem absent_of_diagRead_opcode {p : Packet} {s : State} (hop : opcode p.word = 0xA)
    (hdiag : s.params.hasDiag = false) {i : Instr} (hd : decodeCommand p = .ok i) :
    absentCommand s.params i = true := by
  obtain ⟨hi, -⟩ := decodeCommand_ok_iff.1 hd
  rw [hop] at hi
  obtain rfl := Option.some_inj.1 hi
  simp [absentCommand, hdiag]

/-- Settles O5: a reserved opcode or a set unused field decodes to nothing, and DIAG_READ without the counters to an
absent command. -/
theorem reservedEncodingsAreRefused : Obligations.ReservedEncodingsAreRefused := by
  unfold Obligations.ReservedEncodingsAreRefused
  intro p port s h
  obtain h0 | habove | ⟨hop, hu⟩ | ⟨hop, hu⟩ | ⟨hop, hu⟩ | ⟨hop, hu⟩ | ⟨hop, hu⟩ | ⟨hop, hu⟩ | ⟨hop, hu⟩ | ⟨hop, hu⟩ |
    ⟨hop, hu⟩ | ⟨hop, hdiag⟩ := h
  · exact deliver_of_not_decodes (not_decodes_of_reserved (by rw [opcode, h0]; rfl)) port s
  · exact deliver_of_not_decodes (not_decodes_of_reserved (commandOfOpcode_above habove p)) port s
  on_goal 10 => exact deliver_reserved fun i hd => absent_of_diagRead_opcode hop hdiag hd
  all_goals exact deliver_of_not_decodes (not_decodes_of_unused hop rfl (by rw [rowMask]; rfl) hu) port s

end Sys2Proof.Machine
end

section
/-! PROOFS, family 30_encoding.md, part 2: the inbound frame by its mask (O6), the selector (O7), the spec's example words
(O1), POLL_CYCLE (O10), and GET_BUTTONS (O25). -/

namespace Sys2Proof.Machine

/-! ### The inbound frame -/

theorem bitVec_append_inj {m n : Nat} {a b : BitVec m} {c d : BitVec n} : a ++ c = b ++ d ↔ a = b ∧ c = d := by
  refine ⟨fun h => ?_, fun ⟨ha, hc⟩ => by rw [ha, hc]⟩
  have hlow := congrArg (BitVec.extractLsb' 0 n) h
  rw [BitVec.extractLsb'_append_eq_right, BitVec.extractLsb'_append_eq_right] at hlow
  rw [hlow, BitVec.append_left_inj] at h
  exact ⟨h, hlow⟩

/-- Under the mask of 30_encoding.md R49, written byte by byte, the first three bytes stand and the last three do not
count. -/
theorem inboundMask_iff_header (b0 b1 b2 b3 b4 b5 : Byte) :
    (b0 ++ b1 ++ b2 ++ b3 ++ b4 ++ b5 : BitVec 48) &&& 0xFFFFFF000000 = 0xAA5516000000 ↔
      b0 = 0xAA ∧ b1 = 0x55 ∧ b2 = 0x16 := by
  have hmask : (0xFFFFFF000000 : BitVec 48) = 0xFF#8 ++ 0xFF#8 ++ 0xFF#8 ++ 0#8 ++ 0#8 ++ 0#8 := rfl
  have hmatch : (0xAA5516000000 : BitVec 48) = 0xAA#8 ++ 0x55#8 ++ 0x16#8 ++ 0#8 ++ 0#8 ++ 0#8 := rfl
  have hff (b : Byte) : b &&& 0xFF#8 = b := BitVec.and_allOnes
  rw [hmask, hmatch]
  simp only [BitVec.and_append, bitVec_append_inj, hff, BitVec.and_zero, and_true, and_assoc]
  rfl

theorem decodeWireIn_frameInBytes (x b c : Byte) : decodeWireIn (frameInBytes x b c) = .ok (.frameIn x b c) := rfl

/-- Six bytes decode to the inbound frame of their last three exactly when the first three are the header
(30_encoding.md R48). -/
theorem decodeWireIn_iff_header (b0 b1 b2 b3 b4 b5 : Byte) :
    decodeWireIn [b0, b1, b2, b3, b4, b5] = .ok (.frameIn b3 b4 b5) ↔ b0 = 0xAA ∧ b1 = 0x55 ∧ b2 = 0x16 := by
  constructor
  · intro h
    obtain ⟨x, b, c, -, hbytes⟩ := decodeWireIn_ok h
    simp only [frameInBytes, List.cons_append, List.nil_append, List.cons.injEq] at hbytes
    obtain ⟨h0, h1, h2, -⟩ := hbytes
    exact ⟨h0, h1, h2⟩
  · rintro ⟨rfl, rfl, rfl⟩
    exact decodeWireIn_frameInBytes b3 b4 b5

/-- Settles O6: mask and decoder both test the three header bytes, and only six bytes decode. -/
theorem inboundFrameMatchesItsMask : Obligations.InboundFrameMatchesItsMask := by
  unfold Obligations.InboundFrameMatchesItsMask
  refine ⟨fun b0 b1 b2 b3 b4 b5 =>
    (inboundMask_iff_header b0 b1 b2 b3 b4 b5).trans (decodeWireIn_iff_header b0 b1 b2 b3 b4 b5).symm,
    fun bytes hlen i hd => ?_⟩
  obtain ⟨x, b, c, -, rfl⟩ := decodeWireIn_ok hd
  exact hlen rfl

/-! ### Fixed words, the selector and the cycle -/

/-- Settles O1: each word and frame is a closed term that the decoder evaluates. -/
theorem specExampleWordsDecode : Obligations.SpecExampleWordsDecode := by
  unfold Obligations.SpecExampleWordsDecode
  decide

/-- A line that exists is line 0 or line 1. -/
theorem eq_zero_or_one_of_le {line : Byte} (h : line.toNat ≤ 1) : line = 0 ∨ line = 1 := by
  obtain h0 | h1 := Nat.le_one_iff_eq_zero_or_eq_one.1 h
  · exact .inl (BitVec.eq_of_toNat_eq h0)
  · exact .inr (BitVec.eq_of_toNat_eq h1)

/-- Settles O7: two lines and two backlights give four selectors. -/
theorem selectorHoldsLineAndBacklight : Obligations.SelectorHoldsLineAndBacklight := by
  unfold Obligations.SelectorHoldsLineAndBacklight
  intro line backlight hline
  obtain rfl | rfl := eq_zero_or_one_of_le hline
  · cases backlight <;> decide
  · cases backlight <;> decide

/-- Settles O10: the expansion and the table of the cycle are the same eight commands, whatever the parameters. -/
theorem pollCycleExpandsToTheCycle : Obligations.PollCycleExpandsToTheCycle := by
  unfold Obligations.PollCycleExpandsToTheCycle
  exact fun _ => ⟨rfl, rfl, rfl, rfl⟩

/-! ### GET_BUTTONS -/

theorem exec_getButtons_before {s : State} (h0 : s.initDone = false) :
    exec .getButtons s = .refused .notInitialised := by
  rw [exec, execGetButtons, requireInit_before h0]

theorem exec_getButtons_done {s : State} (h1 : s.initDone = true) :
    exec .getButtons s = .next (s.respond (s.buttons.zeroExtend 32)) := by
  rw [exec, execGetButtons, requireInit_of_done h1]

/-- Settles O25: the response is the buttons byte zero-extended, and `respond` appends to `resp` only. -/
theorem getButtonsRespondsZeroExtended : Obligations.GetButtonsRespondsZeroExtended := by
  unfold Obligations.GetButtonsRespondsZeroExtended
  intro s
  exact ⟨(word_eq_iff_decodes 0x6 rfl rfl rfl).1 rfl, exec_getButtons_before,
    fun h1 => ⟨s.buttons.zeroExtend 32, exec_getButtons_done h1, BitVec.toNat_setWidth_of_le (by decide)⟩⟩

end Sys2Proof.Machine
end

section
/-! PROOFS, family 40_line_api.md, part 1: the text commands SET_LINE (O20), SET_LINE_AT (O21) and CLEAR_LINE (O22). The
three share their word's fields, the guard in front of them (refused, counted, or taken), and a write inside one line;
each is proved once. -/

open Sys2Proof.Claims
open Sys2Proof.Laws.FitsRow (rowMask rowMatch)

namespace Sys2Proof.Machine

/-! ### The words -/

/-- A command whose opcode and operands are read back from its own word decodes from it (30_encoding.md R56). -/
theorem decodeCommand_encodePacket {i : Instr} (op : BitVec 4) (hi : commandOfOpcode op (encodePacket i) = some i)
    (hrow : encodeWord i &&& rowMask i = rowMatch i) : decodeCommand (encodePacket i) = .ok i :=
  (matches_iff_decodes op hi rfl rfl).1 hrow

/-- Bits 23:16 of a command word (30_encoding.md R52). -/
theorem operand_bits_23_16 (op pad : BitVec 4) (b2 b1 b0 : Byte) :
    (op ++ pad ++ b2 ++ b1 ++ b0).extractLsb' 16 8 = b2 := by
  rw [BitVec.extractLsb'_append_eq_of_le (by decide), BitVec.extractLsb'_append_eq_of_le (by decide)]
  exact BitVec.extractLsb'_append_eq_right

/-- Bits 15:8 of a command word (30_encoding.md R52). -/
theorem operand_bits_15_8 (op pad : BitVec 4) (b2 b1 b0 : Byte) :
    (op ++ pad ++ b2 ++ b1 ++ b0).extractLsb' 8 8 = b1 := by
  rw [BitVec.extractLsb'_append_eq_of_le (by decide)]
  exact BitVec.extractLsb'_append_eq_right

theorem decodeCommand_setLine (line : Byte) (text : List Byte) :
    decodeCommand (encodePacket (.setLine line text)) = .ok (.setLine line text) :=
  decodeCommand_encodePacket 0x2
    (congrArg (fun l => some (Instr.setLine l text)) (operand_bits_23_16 _ _ line _ _))
    (Laws.FitsRow.setLine line text).1

theorem decodeCommand_setLineAt (line : Byte) (col : BitVec 8) (text : List Byte) :
    decodeCommand (encodePacket (.setLineAt line col text)) = .ok (.setLineAt line col text) :=
  decodeCommand_encodePacket 0x3
    (congrArg₂ (fun l c => some (Instr.setLineAt l c text)) (operand_bits_23_16 _ _ line _ _)
      (operand_bits_15_8 _ _ _ col _))
    (Laws.FitsRow.setLineAt line col text).1

theorem decodeCommand_clearLine (line : Byte) :
    decodeCommand (encodePacket (.clearLine line)) = .ok (.clearLine line) :=
  decodeCommand_encodePacket 0x4
    (congrArg (fun l => some (Instr.clearLine l)) (operand_bits_23_16 _ _ line _ _))
    (Laws.FitsRow.clearLine line).1

/-! ### The guard of a text command -/

/-- Counting a rejected argument is one more count of `DIAG[6]` and nothing else (40_line_api.md R61). -/
theorem argReject_eq_counted (s : State) : argReject s = .next (counted s 6) := by
  simp only [argReject, State.bump, counted, diagIndex]
  split <;> rfl

/-- What the three text commands have in common: the refusal before INIT (60_exceptions.md R97), the count where `bad`
says that an operand is out of range (40_line_api.md R61), else a write of consecutive columns of a line. -/
def textCommand (bad : Bool) (line : Byte) (col : Nat) (bytes : List Byte) (s : State) : Result :=
  requireInit s fun s => if bad then argReject s else .next (s.writeLine line col bytes)

theorem exec_setLine (line : Byte) (text : List Byte) (s : State) :
    exec (.setLine line text) s = textCommand (lineOutOfRange line) line 0 (setLineBytes text) s := rfl

theorem exec_setLineAt (line : Byte) (col : BitVec 8) (text : List Byte) (s : State) :
    exec (.setLineAt line col text) s =
      textCommand (lineOutOfRange line || colOutOfRange col) line col.toNat
        (setLineAtBytes s.params.setAtTail col.toNat text) s := rfl

theorem exec_clearLine (line : Byte) (s : State) :
    exec (.clearLine line) s =
      textCommand (lineOutOfRange line) line 0 (List.replicate 16 spaceByte ++ [nulByte]) s := rfl

section
variable {s : State} {bad : Bool} (line : Byte) (col : Nat) (bytes : List Byte)

theorem textCommand_before (h0 : s.initDone = false) :
    textCommand bad line col bytes s = .refused .notInitialised := requireInit_before h0 _

theorem textCommand_reject (h1 : s.initDone = true) (hbad : bad = true) :
    textCommand bad line col bytes s = .next (counted s 6) := by
  rw [textCommand, requireInit_of_done h1, if_pos hbad, argReject_eq_counted]

theorem textCommand_accept (h1 : s.initDone = true) (hok : bad = false) :
    textCommand bad line col bytes s = .next (s.writeLine line col bytes) := by
  rw [textCommand, requireInit_of_done h1, hok, if_neg Bool.false_ne_true]

end

theorem lineOutOfRange_eq_true {line : Byte} (h : 1 < line.toNat) : lineOutOfRange line = true := by
  simpa [lineOutOfRange] using h

theorem lineOutOfRange_eq_false {line : Byte} (h : line.toNat ≤ 1) : lineOutOfRange line = false := by
  simpa [lineOutOfRange] using h

/-- When SET_LINE_AT is the silent no-op (40_line_api.md R64). -/
theorem lineOrColOutOfRange_iff {line : Byte} {col : BitVec 8} :
    (lineOutOfRange line || colOutOfRange col) = true ↔ 1 < line.toNat ∨ col.toInt < 0 ∨ 16 ≤ col.toInt := by
  simp [lineOutOfRange, colOutOfRange]

theorem lineOrColOutOfRange_eq_false {line : Byte} {col : BitVec 8} (hl : line.toNat ≤ 1) (h0 : 0 ≤ col.toInt)
    (hw : col.toInt < 16) : (lineOutOfRange line || colOutOfRange col) = false := by
  rw [Bool.eq_false_iff, ne_eq, lineOrColOutOfRange_iff]
  omega

/-! ### A write inside one line -/

section
variable {m : Memory} (hwf : m.wf = true) {line : Byte} (hl : line.toNat ≤ 1) {col : Nat} {bs : List Byte}

include hl in
/-- A write that ends at column 16 or before it stays inside the store. -/
theorem writeSpan_le_storeSize (hlen : col + bs.length ≤ 17) : lineAddr line col + bs.length ≤ storeSize := by
  simp only [lineAddr, lineCap, storeSize]; omega

include hwf hl

theorem writeRange_line_wf (hlen : col + bs.length ≤ 17) : (m.writeRange (lineAddr line col) bs).wf = true :=
  writeRange_wf hwf _ _ (writeSpan_le_storeSize hl hlen)

/-- What every column of the line holds after the write. -/
theorem readByte_writeRange_column (hlen : col + bs.length ≤ 17) (c : Nat) :
    (m.writeRange (lineAddr line col) bs).readByte (lineAddr line c) =
      if col ≤ c ∧ c < col + bs.length then bs.getD (c - col) 0 else m.readByte (lineAddr line c) := by
  rw [readByte_writeRange hwf _ _ (writeSpan_le_storeSize hl hlen)]
  have hdiff : lineAddr line c - lineAddr line col = c - col := Nat.add_sub_add_left ..
  have hspan : (lineAddr line col ≤ lineAddr line c ∧ lineAddr line c < lineAddr line col + bs.length) ↔
      (col ≤ c ∧ c < col + bs.length) := by simp only [lineAddr]; omega
  simp only [hdiff, hspan]

/-- A write that ends at column `last` or before it changes no byte outside the columns up to there. -/
theorem readByte_writeRange_outside {last : Nat} (hlast : last ≤ 16) (hlen : col + bs.length ≤ last + 1) {a : Nat}
    (ha : ¬ (lineAddr line col ≤ a ∧ a ≤ lineAddr line last)) :
    (m.writeRange (lineAddr line col) bs).readByte a = m.readByte a := by
  rw [readByte_writeRange hwf _ _ (writeSpan_le_storeSize hl (by omega)), if_neg]
  simp only [lineAddr] at ha ⊢
  omega

end

/-- What SET_LINE_AT writes `k` columns after its first one: its text, and 0x00 from there on (40_line_api.md R64). -/
theorem getD_setLineAtBytes (tail : SetAtTail) (col : Nat) (text : List Byte) (k : Nat) :
    (setLineAtBytes tail col text).getD k 0 = if k < min (textLen text) (16 - col) then text.getD k 0 else 0 := by
  have hlen := length_setLineAtText col text
  have htext : (setLineAtText col text).getD k 0 = if k < min (textLen text) (16 - col) then text.getD k 0 else 0 := by
    simp only [setLineAtText, List.getD_eq_getElem?_getD, List.getElem?_take, width]
    split <;> rfl
  cases tail with
  | keep => exact htext
  | zeroFill =>
    by_cases hk : k < (setLineAtText col text).length
    · rw [setLineAtBytes, List.getD_append _ _ _ _ hk, htext]
    · rw [setLineAtBytes, List.getD_append_right _ _ _ _ (by omega), if_neg (by omega), List.getD_eq_getElem?_getD]
      exact List.getElem?_getD_replicate_default_eq _ _ _

/-! ### The three commands -/

/-- Settles O20: the 17 bytes written are T up to its length, at most 16 of them, then 0x00. -/
theorem setLineReplacesTheWholeLine : Obligations.SetLineReplacesTheWholeLine := by
  unfold Obligations.SetLineReplacesTheWholeLine
  intro line text s
  rw [exec_setLine]
  refine ⟨decodeCommand_setLine line text, textCommand_before _ _ _,
    fun h1 hl => textCommand_reject _ _ _ h1 (lineOutOfRange_eq_true hl), fun h1 hl hwf => ?_⟩
  have hlen : 0 + (setLineBytes text).length ≤ 17 := by simp
  refine ⟨_, textCommand_accept _ _ _ h1 (lineOutOfRange_eq_false hl), writeRange_line_wf hwf hl hlen,
    fun c hc => ?_, fun a => readByte_writeRange_outside hwf hl (Nat.le_refl 16) hlen⟩
  rw [readByte_writeRange_column hwf hl hlen, if_pos ⟨c.zero_le, by rw [length_setLineBytes]; omega⟩, Nat.sub_zero,
    getD_setLineBytes]

/-- Settles O21: the bytes written are T's from the column on and, under ZERO_FILL only, 0x00 up to column 15. -/
theorem setLineAtWritesFromItsColumn : Obligations.SetLineAtWritesFromItsColumn := by
  unfold Obligations.SetLineAtWritesFromItsColumn
  intro line col text s
  rw [exec_setLineAt]
  refine ⟨decodeCommand_setLineAt line col text, textCommand_before _ _ _,
    fun h1 hbad => textCommand_reject _ _ _ h1 (lineOrColOutOfRange_iff.2 hbad), fun h1 hl h0 hw hwf => ?_⟩
  have hcol := toNat_lt_of_toInt_lt h0 hw
  have hlen := length_setLineAtBytes s.params.setAtTail (c := col.toNat) text
  have hend := length_setLineAtBytes_le s.params.setAtTail col.toNat text
  refine ⟨_, textCommand_accept _ _ _ h1 (lineOrColOutOfRange_eq_false hl h0 hw),
    writeRange_line_wf hwf hl (by omega), fun k hk => ?_, fun c hc hc16 => ?_,
    fun a => readByte_writeRange_outside hwf hl (by omega) (by omega)⟩
  · have hin : k < (setLineAtBytes s.params.setAtTail col.toNat text).length := by
      rw [hlen]; split <;> omega
    rw [readByte_writeRange_column hwf hl (by omega), if_pos (by omega), getD_setLineAtBytes,
      Nat.add_sub_cancel_left, if_pos hk]
  · rw [readByte_writeRange_column hwf hl (by omega), getD_setLineAtBytes, hlen]
    cases s.params.setAtTail with
    | keep => rw [if_neg (by simp only; omega), if_neg nofun]
    | zeroFill => rw [if_pos (by simp only; omega), if_neg (by omega), if_pos rfl]

/-- Settles O22: 16 spaces and 0x00 are written from column 0 on. -/
theorem clearLineFillsWithSpaces : Obligations.ClearLineFillsWithSpaces := by
  unfold Obligations.ClearLineFillsWithSpaces
  intro line s
  rw [exec_clearLine]
  refine ⟨decodeCommand_clearLine line, textCommand_before _ _ _,
    fun h1 hl => textCommand_reject _ _ _ h1 (lineOutOfRange_eq_true hl), fun h1 hl hwf => ?_⟩
  have hlen : 0 + (List.replicate 16 spaceByte ++ [nulByte]).length ≤ 17 := by decide
  refine ⟨_, textCommand_accept _ _ _ h1 (lineOutOfRange_eq_false hl), writeRange_line_wf hwf hl hlen,
    fun c hc => ?_, readByte_writeRange_column hwf hl hlen 16,
    fun a => readByte_writeRange_outside hwf hl (Nat.le_refl 16) hlen⟩
  rw [readByte_writeRange_column hwf hl hlen, if_pos ⟨c.zero_le, Nat.lt_of_lt_of_le hc (by decide)⟩, Nat.sub_zero,
    List.getD_append _ _ _ _ (by simpa using hc), List.getD_replicate _ hc]

end Sys2Proof.Machine
end

section
/-! PROOFS, family 40_line_api.md, part 2: the text SET_LINE stores is the text of the line's next frame (O27). A
line that holds a text without 0x00, then 0x00 to its end, gives that text padded with spaces as frame text. -/

open Sys2Proof.Claims

namespace Sys2Proof.Machine

/-! ### The frame text of a stored text -/

/-- The length of a text in front of 0x00 bytes: they are where the first 0x00 is (30_encoding.md R55). -/
theorem textLen_append_nuls {u : List Byte} (hu : ∀ b ∈ u, b ≠ nulByte) (n : Nat) :
    textLen (u ++ List.replicate n nulByte) = u.length := by
  induction u with
  | nil => cases n <;> simp [textLen, List.replicate_succ]
  | cons b bs ih =>
    obtain ⟨hb, hbs⟩ := List.forall_mem_cons.1 hu
    rw [List.cons_append, textLen, if_neg hb, ih hbs, List.length_cons]

/-- `Text16` of a line that holds a text and then 0x00: the text padded with spaces (41_frame_encoder.md R70). -/
theorem text16_append_nuls {u : List Byte} (hu : ∀ b ∈ u, b ≠ nulByte) (hlen : u.length ≤ 16) :
    text16 (u ++ List.replicate (17 - u.length) nulByte) = u ++ List.replicate (16 - u.length) spaceByte := by
  have htext : textLen ((u ++ List.replicate (17 - u.length) nulByte).take width) = u.length := by
    rw [List.take_append, List.take_of_length_le hlen, List.take_replicate, textLen_append_nuls hu]
  apply List.ext_getElem (by simp [hlen])
  intro k h1 h2
  simp only [text16, List.getElem_map, List.getElem_range, textByte, htext]
  split_ifs with hk
  · rw [List.getD_append _ _ _ _ hk, List.getElem_append_left hk, List.getD_eq_getElem]
  · rw [List.getElem_append_right (by omega), List.getElem_replicate]

/-- SET_LINE stores no 0x00 before the end of its text (40_line_api.md R63). -/
theorem ne_nul_of_mem_setLineText {text : List Byte} {b : Byte} (hb : b ∈ setLineText text) : b ≠ nulByte := by
  obtain ⟨k, hk, rfl⟩ := List.mem_take_iff_getElem.1 hb
  rw [← List.getD_eq_getElem _ 0]
  exact getD_ne_nul_of_lt_textLen (by omega)

/-- A text that fits in the line is stored whole (40_line_api.md R69). -/
theorem setLineText_of_fits {text : List Byte} (h : textLen text ≤ 16) : setLineText text = text.take (textLen text) :=
  congrArg text.take (Nat.min_eq_left h)

/-- A longer text is cut to 16 bytes (40_line_api.md R69). -/
theorem setLineText_of_long {text : List Byte} (h : 16 ≤ textLen text) : setLineText text = text.take 16 :=
  congrArg text.take (Nat.min_eq_right h)

/-- The frame text of what SET_LINE writes (40_line_api.md R69). -/
theorem text16_setLineBytes (text : List Byte) :
    text16 (setLineBytes text) =
      setLineText text ++ List.replicate (16 - (setLineText text).length) spaceByte :=
  text16_append_nuls (fun _ => ne_nul_of_mem_setLineText) (by rw [length_setLineText]; omega)

/-- Bytes 5 to 20 of a frame are its text field (41_frame_encoder.md R72). -/
theorem frame_text (line : Byte) (backlight : Bool) (store : List Byte) :
    ((frame line backlight store).drop 5).take 16 = text16 store :=
  List.take_left' (length_text16 store)

/-! ### The stored line and its snapshot -/

/-- A line written from column 0 to column 16 holds what was written. -/
theorem lineStore_writeLine {s : State} (hwf : s.mem.wf = true) {line : Byte} (hl : line.toNat ≤ 1)
    {bytes : List Byte} (hlen : bytes.length = 17) : (s.writeLine line 0 bytes).lineStore line = bytes := by
  apply List.ext_getElem (by simp [State.lineStore, hlen])
  intro c h1 h2
  simp only [State.lineStore, State.lineByte, List.getElem_map, List.getElem_range, writeLine_mem]
  rw [readByte_writeRange_column hwf hl (by omega), if_pos (by omega), Nat.sub_zero, List.getD_eq_getElem]

/-- ENCODE_SEND of an existing line on a free port takes the snapshot (41_frame_encoder.md R73). -/
theorem exec_encodeSend_of_line {line : Byte} (hl : line.toNat ≤ 1) {s : State} (h1 : s.initDone = true)
    (hfree : portFree s) : exec (.encodeSend line) s = .next (snapshot line s) := by
  rw [exec, execEncodeSend, onSequencerPort_of_free h1 ((portBusy_false_iff s).2 hfree), lineOutOfRange_eq_false hl,
    if_neg Bool.false_ne_true]

/-- The text field of the snapshot's frame is the frame text of the line (41_frame_encoder.md R73). -/
theorem snapshot_text (line : Byte) (s : State) :
    ((snapshot line s).txBuf.toList.drop 5).take 16 = text16 (s.lineStore line) := by
  rw [snapshot, toList_toTxBuf (length_frame _ _ _), frame_text]

/-- SET_LINE_AT with a column out of range leaves line storage as it was (40_line_api.md R69). -/
theorem setLineAt_bad_column_mem {line : Byte} {col : BitVec 8} (hcol : col.toInt < 0 ∨ 16 ≤ col.toInt)
    {text : List Byte} {s t : State} (ht : exec (.setLineAt line col text) s = .next t) : t.mem = s.mem := by
  rw [exec_setLineAt] at ht
  have h1 : s.initDone = true := (requireInit_next ht).1
  rw [textCommand_reject _ _ _ h1 (lineOrColOutOfRange_iff.2 (.inr hcol))] at ht
  cases ht
  rfl

/-- Settles O27: the snapshot's text field is SET_LINE's text padded with spaces, and a bad column is only counted. -/
theorem textSetIsTextSent : Obligations.TextSetIsTextSent := by
  unfold Obligations.TextSetIsTextSent
  intro line text s
  refine ⟨fun h1 hfree hwf hl => ?_, fun col t hcol => setLineAt_bad_column_mem (by omega)⟩
  have hstore := lineStore_writeLine hwf hl (length_setLineBytes text)
  have hlen := length_setLineText text
  refine ⟨s.writeLine line 0 (setLineBytes text), _, textCommand_accept _ _ _ h1 (lineOutOfRange_eq_false hl),
    exec_encodeSend_of_line hl h1 hfree, fun hfits => ?_, fun hlong => ?_⟩
  · rw [snapshot_text, hstore, text16_setLineBytes, hlen, Nat.min_eq_left hfits, setLineText_of_fits hfits]
  · rw [Nat.min_eq_right hlong.le] at hlen
    rw [snapshot_text, hstore, text16_setLineBytes, hlen, ← setLineText_of_long hlong.le]
    exact ⟨List.append_nil _, List.take_left' hlen⟩

end Sys2Proof.Machine
end

section
/-! PROOFS, family 40_line_api.md, part 3: SET_BACKLIGHT (O24) and DIAG_READ (O26). -/

namespace Sys2Proof.Machine

theorem decodeCommand_setBacklight (on : Bool) :
    decodeCommand (encodePacket (.setBacklight on)) = .ok (.setBacklight on) :=
  decodeCommand_encodePacket 0x5 (by cases on <;> rfl) (Laws.FitsRow.setBacklight on).1

theorem decodeCommand_diagRead (idx : BitVec 3) :
    decodeCommand (encodePacket (.diagRead idx)) = .ok (.diagRead idx) :=
  decodeCommand_encodePacket 0xA (congrArg (fun i => some (Instr.diagRead i)) BitVec.extractLsb'_append_eq_right)
    (Laws.FitsRow.diagRead idx).1

/-- Bits 7:1 of a SET_BACKLIGHT word are among the bits its command does not use (30_encoding.md R52, R57). -/
theorem unused_of_bits_7_1 {w : Word} (h : w.extractLsb' 1 7 ≠ 0) : w &&& 0x0FFFFFFE ≠ 0 := by
  intro hzero
  refine h ?_
  calc w.extractLsb' 1 7 = w.extractLsb' 1 7 &&& BitVec.extractLsb' 1 7 0x0FFFFFFE#32 := BitVec.and_allOnes.symm
    _ = (w &&& 0x0FFFFFFE).extractLsb' 1 7 := BitVec.extractLsb'_and.symm
    _ = 0 := by rw [hzero]; rfl

theorem exec_setBacklight_before {s : State} (h0 : s.initDone = false) (on : Bool) :
    exec (.setBacklight on) s = .refused .notInitialised := by
  rw [exec, execSetBacklight, requireInit_before h0]

theorem exec_setBacklight_done {s : State} (h1 : s.initDone = true) (on : Bool) :
    exec (.setBacklight on) s = .next { s with backlight := on } := by
  rw [exec, execSetBacklight, requireInit_of_done h1]

/-- Settles O24: the flag is written and nothing else; a bit of 7:1 is a set bit of an unused field. -/
theorem setBacklightWritesTheFlag : Obligations.SetBacklightWritesTheFlag := by
  unfold Obligations.SetBacklightWritesTheFlag
  intro on s
  refine ⟨decodeCommand_setBacklight on, fun h0 => exec_setBacklight_before h0 on,
    fun h1 => exec_setBacklight_done h1 on, fun w text hop hbits => ?_⟩
  have hnone : ∀ j, decodeCommand ⟨w, text⟩ ≠ .ok j :=
    not_decodes_of_unused (op := 0x5) (i := .setBacklight (w.getLsbD 0)) hop rfl (by rw [Laws.FitsRow.rowMask]; rfl)
      (unused_of_bits_7_1 hbits)
  exact deliver_of_not_decodes hnone .host s

theorem exec_diagRead_absent {s : State} (hd : s.params.hasDiag = false) (idx : BitVec 3) :
    exec (.diagRead idx) s = .refused .reserved := by
  rw [exec, execDiagRead, hd, if_neg Bool.false_ne_true]

/-- Where the counters exist, DIAG_READ is guarded by INIT as every other command (60_exceptions.md R98). -/
theorem exec_diagRead_present {s : State} (hd : s.params.hasDiag = true) (idx : BitVec 3) :
    exec (.diagRead idx) s = requireInit s fun s => .next (s.respond s.diag[idx.toFin]) := by
  rw [exec, execDiagRead, if_pos hd]

/-- Settles O26: the absent counters refuse first, then INIT; else the counter's value is appended to `resp` only. -/
theorem diagReadRespondsTheCounter : Obligations.DiagReadRespondsTheCounter := by
  unfold Obligations.DiagReadRespondsTheCounter
  intro idx s
  refine ⟨decodeCommand_diagRead idx, fun hd => exec_diagRead_absent hd idx, fun hd h0 => ?_, fun hd h1 => ?_⟩
  · rw [exec_diagRead_present hd, requireInit_before h0]
  · rw [exec_diagRead_present hd, requireInit_of_done h1]
    rfl

end Sys2Proof.Machine
end

section
/-! PROOFS, family 41_frame_encoder.md, part 1: `TXLOG` is whole frames and then what is sent of the one in progress
(O15). While a frame is being sent it is one TX_SEND byte longer in `TXLOG` for each count of `TXIDX`; with the 22nd it is
a whole frame. -/

namespace Sys2Proof.Machine

/-! ### `TXLOG` between frames and within one -/

/-- `TXLOG` after these whole frames and these further bytes. -/
def LogIs (s : State) (sent : List Byte) : Prop :=
  ∃ frames : List (List Byte), (∀ f ∈ frames, IsOutFrame f) ∧ s.txLog = frames.flatten ++ sent

theorem txLogFramed_of_idle {s : State} (ht : s.txState = .idle) : TxLogFramed s ↔ LogIs s [] := by
  simp only [TxLogFramed, LogIs, ht, if_true]

theorem txLogFramed_of_busy {s : State} (ht : s.txState ≠ .idle) :
    TxLogFramed s ↔ LogIs s (s.txBuf.toList.take s.txIdx) := by
  simp only [TxLogFramed, LogIs, ht, if_false]

/-- What TX_SEND reads of `TXBUF` at an index in range (41_frame_encoder.md R75). -/
theorem byteAt_txBuf (buf : Vector Byte 22) {k : Nat} (hk : k < 22) : (buf[k]?).getD 0 = buf[k] := by
  rw [Vector.getElem?_eq_getElem hk, Option.getD_some]

/-- The bytes of `TXBUF` already sent, and the one at `TXIDX` after them (41_frame_encoder.md R75). -/
theorem take_txBuf_succ (buf : Vector Byte 22) {k : Nat} (hk : k < 22) :
    buf.toList.take (k + 1) = buf.toList.take k ++ [(buf[k]?).getD 0] := by
  have hlen : k < buf.toList.length := by simpa using hk
  rw [List.take_succ_eq_append_getElem hlen, byteAt_txBuf buf hk, Vector.getElem_toList]

/-- The byte that TX_SEND appends is the next one of the frame in progress. -/
theorem LogIs.send {s t : State} (h : LogIs s (s.txBuf.toList.take s.txIdx)) (hidx : s.txIdx < 22)
    (hlog : t.txLog = s.txLog ++ [(s.txBuf[s.txIdx]?).getD 0]) : LogIs t (s.txBuf.toList.take (s.txIdx + 1)) := by
  obtain ⟨frames, hframes, hsent⟩ := h
  exact ⟨frames, hframes, by rw [hlog, hsent, take_txBuf_succ _ hidx, List.append_assoc]⟩

/-- A whole frame sent is one more of the frames in `TXLOG`. -/
theorem LogIs.closeFrame {s : State} {f : List Byte} (h : LogIs s f) (hf : IsOutFrame f) : LogIs s [] := by
  obtain ⟨frames, hframes, hlog⟩ := h
  exact ⟨frames ++ [f], by simpa [or_imp, forall_and] using ⟨hframes, hf⟩, by simpa using hlog⟩

/-! ### One lemma per kind of step -/

theorem TxLogFramed.bump {s : State} (h : TxLogFramed s) (d : DiagId) : TxLogFramed (s.bump d) := by
  rw [bump_eq]; exact h

/-- Of the micro-steps TX_SEND appends its byte to what is sent of the frame, and ends the frame with the 22nd. -/
theorem MicroCase.keeps_txLogFramed {s t : State} (hinv : Invariant s) (h : TxLogFramed s) (hc : MicroCase s t) :
    TxLogFramed t := by
  cases hc with
  | pollSend d ht hr =>
    have hbusy : s.txState ≠ .idle := by simp [ht]
    exact (txLogFramed_of_busy (by simp)).2 ((txLogFramed_of_busy hbusy).1 h)
  | sendMore ht hi =>
    have hbusy : s.txState ≠ .idle := by simp [ht]
    exact (txLogFramed_of_busy (by simp)).2 (((txLogFramed_of_busy hbusy).1 h).send (hinv.txIdxBusy hbusy) rfl)
  | sendLast d ht hi =>
    have hbusy : s.txState ≠ .idle := by simp [ht]
    have hwhole : s.txBuf.toList.take (s.txIdx + 1) = s.txBuf.toList := List.take_of_length_le (by simp [hi])
    refine (txLogFramed_of_idle rfl).2 (LogIs.closeFrame ?_ (hinv.txFrame hbusy))
    rw [← hwhole]
    exact ((txLogFramed_of_busy hbusy).1 h).send (hinv.txIdxBusy hbusy) rfl
  | _ => exact h

/-- The snapshot begins a frame of which nothing is sent yet; no other command touches the encoder. -/
theorem StartCase.keeps_txLogFramed {i : Instr} {s t : State} (h : TxLogFramed s) (hidle : s.txState = .idle)
    (hc : StartCase i s t) : TxLogFramed t := by
  cases hc with
  | noop line hi hl => exact h.bump _
  | snapshot line buf hi hl hb => exact (txLogFramed_of_busy (by simp)).2 ((txLogFramed_of_idle hidle).1 h)
  | receive hi => exact h
  | wait ms hi => exact h

theorem StepCase.keeps_txLogFramed {s t : State} (hinv : Invariant s) (h : TxLogFramed s) (hc : StepCase s t) :
    TxLogFramed t := by
  cases hc with
  | host p l n i hm hd hp hc => rw [hc.frame]; exact h
  | micro l n hb =>
    have ht := (microStep_case hb).keeps_txLogFramed hinv h
    exact ht
  | stutter l n => exact h
  | advance l n hb hp => rw [seqAdvance_frame]; exact h
  | issue l n p script i hb h1 hp hn hd hc =>
    have hidle : s.txState = .idle := ((portBusy_false_iff s).1 hb).1
    have hs : TxLogFramed { s with inputs := l, drawn := n, script := script } := h
    have ht := hc.keeps_txLogFramed hs hidle
    exact ht
  | arrival l n bytes hm => exact h

/-- Settles O15: only TX_SEND and the snapshot change what the statement reads, and the invariant makes the buffer a whole
frame whose index is in range. -/
theorem txLogIsAlwaysWholeFrames : Obligations.TxLogIsAlwaysWholeFrames := by
  unfold Obligations.TxLogIsAlwaysWholeFrames
  intro s t hinv h hs
  exact (step_case hs).keeps_txLogFramed hinv h

end Sys2Proof.Machine
end

section
/-! PROOFS, family 41_frame_encoder.md, part 2: the frame byte by byte (O8), its sum (O9), and the snapshot that
ENCODE_SEND takes of it (O28). -/

open Sys2Proof.Claims

namespace Sys2Proof.Machine

/-! ### The bytes of a frame -/

/-- A column is before the first 0x00 of a text exactly when no byte up to it is 0x00 (30_encoding.md R55). -/
theorem lt_textLen_iff {t : List Byte} {k : Nat} : k < textLen t ↔ ∀ j, j ≤ k → t.getD j 0 ≠ 0 := by
  refine ⟨fun h j hj => getD_ne_nul_of_lt_textLen (by omega), fun h => ?_⟩
  induction t generalizing k with
  | nil => exact absurd rfl (h 0 k.zero_le)
  | cons b bs ih =>
    have hb : b ≠ nulByte := h 0 k.zero_le
    rw [textLen, if_neg hb]
    cases k with
    | zero => exact Nat.succ_pos _
    | succ k => exact Nat.succ_lt_succ (ih fun j hj => h (j + 1) (Nat.succ_le_succ hj))

theorem getD_take_width (store : List Byte) {j : Nat} (hj : j < 16) : (store.take width).getD j 0 = store.getD j 0 := by
  rw [List.getD_eq_getElem?_getD, List.getElem?_take, if_pos hj, List.getD_eq_getElem?_getD]

/-- A text byte is the store's where no byte of the store up to it is 0x00 (41_frame_encoder.md R70). -/
theorem textByte_of_text {store : List Byte} {k : Nat} (hk : k < 16) (h : ∀ j, j ≤ k → store.getD j 0 ≠ 0) :
    textByte store k = store.getD k 0 := by
  have htext : k < textLen (store.take width) :=
    lt_textLen_iff.2 fun j hj => by rw [getD_take_width store (by omega)]; exact h j hj
  exact if_pos htext

/-- From the first 0x00 of the store on, a text byte is the pad byte (41_frame_encoder.md R70). -/
theorem textByte_of_nul {store : List Byte} {k j : Nat} (hk : k < 16) (hj : j ≤ k) (h : store.getD j 0 = 0) :
    textByte store k = spaceByte := by
  have hpad : ¬ k < textLen (store.take width) := fun hlt =>
    lt_textLen_iff.1 hlt j hj ((getD_take_width store (by omega)).trans h)
  exact if_neg hpad

section
variable (line : Byte) (backlight : Bool) (store : List Byte)

/-- Byte 5 + k of a frame is text byte k (41_frame_encoder.md R72). -/
theorem getD_frame_text {k : Nat} (hk : k < 16) : (frame line backlight store).getD (5 + k) 0 = textByte store k := by
  rw [← getD_text16 store hk, ← frame_text line backlight store]
  simp only [List.getD_eq_getElem?_getD, List.getElem?_take, List.getElem?_drop, if_pos hk]

/-- Bytes 4 to 20 of a frame are what its checksum is taken of (41_frame_encoder.md R71, R72). -/
theorem frame_summed :
    ((frame line backlight store).drop 4).take 17 = frameSelector line backlight :: text16 store :=
  List.take_left' (congrArg (· + 1) (length_text16 store))

/-- Byte 21 of a frame is its checksum (41_frame_encoder.md R72). -/
theorem getD_frame_checksum :
    (frame line backlight store).getD 21 0 = checksum (frameSelector line backlight) (text16 store) :=
  rfl

end

/-- The selector as a number (30_encoding.md R46), the first of the selector's laws (O7). -/
theorem toNat_frameSelector {line : Byte} (hl : line.toNat ≤ 1) (backlight : Bool) :
    (frameSelector line backlight).toNat = line.toNat + (if backlight then 2 else 0) :=
  (selectorHoldsLineAndBacklight line backlight hl).1

/-- The 8-bit sum is the sum of the bytes as numbers, modulo 256 (00_scope.md R10). -/
theorem foldl_toNat_mod (bs : List Byte) (n : Nat) :
    bs.foldl (fun n b => n + b.toNat) n % 256 = (n + (sum8 bs).toNat) % 256 := by
  induction bs generalizing n with
  | nil => rfl
  | cons b bs ih =>
    rw [List.foldl_cons, ih, sum8, BitVec.toNat_add]
    omega

/-- The checksum as a number: the 8-bit two's complement of the sum (41_frame_encoder.md R71). -/
theorem toNat_checksum (sel : Byte) (text : List Byte) :
    (checksum sel text).toNat = (0x100 - (sel :: text).foldl (fun n b => n + b.toNat) 0 % 256) % 256 := by
  have hlt : (sum8 (sel :: text)).toNat < 256 := (sum8 (sel :: text)).isLt
  rw [foldl_toNat_mod, checksum, BitVec.toNat_sub, Nat.zero_add, Nat.mod_eq_of_lt hlt]
  rfl

/-- Settles O8: the frame's parts stand one after the other, and its text is the store up to its first 0x00. -/
theorem frameIsHeaderSelectorTextChecksum : Obligations.FrameIsHeaderSelectorTextChecksum := by
  unfold Obligations.FrameIsHeaderSelectorTextChecksum
  intro line backlight store hl _
  refine ⟨length_frame _ _ _, rfl, toNat_frameSelector hl backlight, fun k hk htext => ?_, fun k j hk hj hnul => ?_, ?_⟩
  · rw [getD_frame_text _ _ _ hk, textByte_of_text hk htext]
  · rw [getD_frame_text _ _ _ hk, textByte_of_nul hk hj hnul]
  · rw [getD_frame_checksum, frame_summed, toNat_checksum]

/-- Settles O9: the checksum completes the sum of selector and text to 0 (41_frame_encoder.md R77). -/
theorem everyFrameSumsToZero : Obligations.EveryFrameSumsToZero := by
  unfold Obligations.EveryFrameSumsToZero
  intro line backlight store hl
  exact ⟨sum8_checksummed _ _, isOutFrame_frame hl backlight store⟩

/-! ### ENCODE_SEND -/

theorem decodeCommand_encodeSend (line : Byte) :
    decodeCommand (encodePacket (.encodeSend line)) = .ok (.encodeSend line) :=
  decodeCommand_encodePacket 0x7
    (congrArg (fun l => some (Instr.encodeSend l)) (operand_bits_23_16 _ _ line _ _))
    (Laws.FitsRow.encodeSend line).1

theorem exec_encodeSend_before {s : State} (h0 : s.initDone = false) (line : Byte) :
    exec (.encodeSend line) s = .refused .notInitialised := by
  rw [exec, execEncodeSend, onSequencerPort, requireInit_before h0]

/-- ENCODE_SEND of a line out of range on a free port is only counted (41_frame_encoder.md R73). -/
theorem exec_encodeSend_of_no_line {line : Byte} (hl : 1 < line.toNat) {s : State} (h1 : s.initDone = true)
    (hfree : portFree s) : exec (.encodeSend line) s = .next (counted s 6) := by
  rw [exec, execEncodeSend, onSequencerPort_of_free h1 ((portBusy_false_iff s).2 hfree),
    if_pos (lineOutOfRange_eq_true hl), argReject_eq_counted]

/-- The snapshot writes the transmit registers only, and `TXBUF` holds exactly the frame (41_frame_encoder.md R73). -/
theorem snapshot_eq (line : Byte) (s : State) :
    ∃ buf : Vector Byte 22, buf.toList = frame line s.backlight (s.lineStore line) ∧
      snapshot line s = { s with txBuf := buf, txIdx := 0, txPoll := 0, txState := .poll } :=
  ⟨_, toList_toTxBuf (length_frame _ _ _), rfl⟩

/-- Settles O28: the guards of the sequencer port, then the count or the snapshot. -/
theorem encodeSendSnapshotsTheFrame : Obligations.EncodeSendSnapshotsTheFrame := by
  unfold Obligations.EncodeSendSnapshotsTheFrame
  intro line s
  refine ⟨decodeCommand_encodeSend line, fun h0 => exec_encodeSend_before h0 line,
    fun h1 hfree hl => exec_encodeSend_of_no_line hl h1 hfree, fun h1 hfree hl => ?_⟩
  obtain ⟨buf, hbuf, hsnap⟩ := snapshot_eq line s
  exact ⟨buf, hbuf, (exec_encodeSend_of_line hl h1 hfree).trans (congrArg _ hsnap)⟩

end Sys2Proof.Machine
end

section
/-! PROOFS, family 41_frame_encoder.md, part 3: the micro-steps TX_POLL (O29) and TX_SEND (O30), and ENCODE_SEND left
alone (O31). A run of the encoder is put together from runs: the polls before one byte, that byte, and so on to the
22nd. -/

open Sys2Proof.Claims

namespace Sys2Proof.Machine

/-! ### The two micro-steps -/

/-- Counting, in the words of the statements (10_state.md R22). -/
theorem bump_eq_counted (s : State) (d : DiagId) : s.bump d = counted s (diagIndex d) := by
  unfold State.bump counted
  split <;> rfl

/-- While a frame is being sent SEQ's turn is the encoder's next micro-step. -/
theorem seqTurn_of_txBusy {s : State} (ht : s.txState ≠ .idle) : seqTurn s = .next (microStep s) := by
  have hb : s.portBusy = true := by simp [State.portBusy, ht]
  rw [seqTurn, if_pos hb]

theorem microStep_of_poll {s : State} (ht : s.txState = .poll) : microStep s = txPollStep s := by
  simp only [microStep, ht]

theorem microStep_of_send {s : State} (ht : s.txState = .send) : microStep s = txSendStep s := by
  simp only [microStep, ht]

theorem txPollStep_txIdx (s : State) : (txPollStep s).txIdx = s.txIdx := by rw [txPollStep_eq]

/-- A true answer, or the last poll allowed, goes on to send (41_frame_encoder.md R74). -/
theorem txPollStep_to_send {s : State} (h : s.readyAnswer = true ∨ s.txPoll + 1 = s.params.txPollMax) :
    (txPollStep s).txState = .send := by
  rw [txPollStep_eq]; exact if_pos h

/-- Settles O29: SEQ's turn is TX_POLL, which branches on the answer and then on the poll count. -/
theorem txPollPollsOnce : Obligations.TxPollPollsOnce := by
  unfold Obligations.TxPollPollsOnce
  intro s ht
  rw [seqTurn_of_txBusy (by simp [ht]), microStep_of_poll ht, txPollStep, bump_eq_counted]
  rfl

/-- Settles O30: SEQ's turn is TX_SEND, and an index below 22 reads its byte of `TXBUF`. -/
theorem txSendSendsOneByte : Obligations.TxSendSendsOneByte := by
  unfold Obligations.TxSendSendsOneByte
  intro s h ht
  rw [seqTurn_of_send ht, txSendStep, byteAt_txBuf s.txBuf h, bump_eq_counted]
  rfl

/-! ### Runs of the encoder left alone -/

/-- A run that stops at no fault or refusal can be cut in two. -/
theorem run_add {M : Host.Core} {j : Nat} (k : Nat) {s t : M.State} (h : M.run j s = .next t) :
    M.run (j + k) s = M.run k t := by
  induction j generalizing s with
  | zero => injection h with h; rw [h, Nat.zero_add]
  | succ j ih =>
    rw [Nat.succ_add]
    simp only [Host.Core.run] at h ⊢
    split at h
    · exact ih h
    · cases h
    · cases h

/-- What changes while a frame is sent: the transmit registers but `TXBUF`, `TXLOG`, the counters and the answers of
`TxReady` used up. -/
def SameButSending (s t : State) : Prop :=
  t = { s with
    txIdx := t.txIdx, txPoll := t.txPoll, txState := t.txState, txLog := t.txLog, diag := t.diag,
    readyAnswers := t.readyAnswers, readyCalls := t.readyCalls }

theorem SameButSending.trans {s t u : State} (hst : SameButSending s t) (htu : SameButSending t u) :
    SameButSending s u :=
  Eq.trans htu (by rw [hst])

theorem SameButSending.alone {s t : State} (h : SameButSending s t) (ha : alone s) : alone t := by
  rw [h]; exact ha

theorem SameButSending.params_eq {s t : State} (h : SameButSending s t) : t.params = s.params := by rw [h]

theorem SameButSending.txBuf_eq {s t : State} (h : SameButSending s t) : t.txBuf = s.txBuf := by rw [h]

/-- Some run from `s` to `t` appends exactly `bytes` to `TXLOG` with at least `least` and at most `most` polls made. -/
structure Sends (s t : State) (bytes : List Byte) (least most : Nat) : Prop where
  run      : ∃ k, Sys2Proof.core.run k s = .next t
  log      : t.txLog = s.txLog ++ bytes
  pollsGe  : s.readyCalls + least ≤ t.readyCalls
  pollsLe  : t.readyCalls ≤ s.readyCalls + most
  sameRest : SameButSending s t

/-- One run after another: the bytes and the polls add up. -/
theorem Sends.trans {s t u : State} {bs cs : List Byte} {least most least' most' : Nat} (h : Sends s t bs least most)
    (h' : Sends t u cs least' most') : Sends s u (bs ++ cs) (least + least') (most + most') := by
  obtain ⟨j, hj⟩ := h.run
  obtain ⟨k, hk⟩ := h'.run
  have hge := h.pollsGe
  have hge' := h'.pollsGe
  have hle := h.pollsLe
  have hle' := h'.pollsLe
  exact {
    run := ⟨j + k, (run_add k hj).trans hk⟩
    log := by rw [h'.log, h.log, List.append_assoc]
    pollsGe := by omega
    pollsLe := by omega
    sameRest := h.sameRest.trans h'.sameRest }

/-- The bounds on the polls may be given wider. -/
theorem Sends.widen {s t : State} {bs : List Byte} {least most least' most' : Nat} (h : Sends s t bs least most)
    (hleast : least' ≤ least) (hmost : most ≤ most') : Sends s t bs least' most' :=
  { h with
    pollsGe := (Nat.add_le_add_left hleast _).trans h.pollsGe
    pollsLe := h.pollsLe.trans (Nat.add_le_add_left hmost _) }

/-- Left alone, the encoder's next micro-step is the next step of the machine. -/
theorem run_one_of_txBusy {s : State} (ha : alone s) (ht : s.txState ≠ .idle) :
    Sys2Proof.core.run 1 s = .next (microStep s) := by
  have hstep : Sys2Proof.core.step s = .next (microStep s) := by
    rw [Host.Check.core_step, step, nextMove_alone ha.1 ha.2]
    exact seqTurn_of_txBusy ht
  simp only [Host.Core.run, hstep]

/-- One TX_POLL: one poll made, nothing sent. -/
theorem sends_poll {s : State} (ha : alone s) (ht : s.txState = .poll) : Sends s (txPollStep s) [] 1 1 := by
  have hcalls : (txPollStep s).readyCalls = s.readyCalls + 1 := by rw [txPollStep_eq]
  exact {
    run := ⟨1, microStep_of_poll ht ▸ run_one_of_txBusy ha (by simp [ht])⟩
    log := by rw [txPollStep_eq, List.append_nil]
    pollsGe := hcalls.ge
    pollsLe := hcalls.le
    sameRest := by rw [SameButSending, txPollStep_eq] }

/-- One TX_SEND: the byte at `TXIDX` sent, no poll made. -/
theorem sends_byte {s : State} (ha : alone s) (ht : s.txState = .send) :
    Sends s (txSendStep s) [(s.txBuf[s.txIdx]?).getD 0] 0 0 := by
  have hcalls : (txSendStep s).readyCalls = s.readyCalls := by rw [txSendStep_eq]
  exact {
    run := ⟨1, microStep_of_send ht ▸ run_one_of_txBusy ha (by simp [ht])⟩
    log := by rw [txSendStep_eq]
    pollsGe := hcalls.ge
    pollsLe := hcalls.le
    sameRest := by rw [SameButSending, txSendStep_eq] }

/-- With `n + 1` polls still allowed, at most so many lead to TX_SEND, whatever `TxReady` answers
(41_frame_encoder.md R74). -/
theorem polls_reach_send (n : Nat) {s : State} (ha : alone s) (ht : s.txState = .poll)
    (hn : s.txPoll + (n + 1) = s.params.txPollMax) :
    ∃ t, Sends s t [] 1 (n + 1) ∧ t.txState = .send ∧ t.txIdx = s.txIdx := by
  induction n generalizing s with
  | zero => exact ⟨txPollStep s, sends_poll ha ht, txPollStep_to_send (.inr hn), txPollStep_txIdx s⟩
  | succ n ih =>
    have hpoll := sends_poll ha ht
    by_cases hr : s.readyAnswer = true
    · exact ⟨txPollStep s, hpoll.widen (Nat.le_refl 1) (by omega), txPollStep_to_send (.inl hr), txPollStep_txIdx s⟩
    · have hcount : (txPollStep s).txPoll = s.txPoll + 1 := by rw [txPollStep_eq]
      have hstay : (txPollStep s).txState = .poll := by
        rw [txPollStep_eq, ← ht]; exact if_neg (not_or.2 ⟨hr, by omega⟩)
      obtain ⟨t, hpolls, hsend, hidx⟩ :=
        ih (hpoll.sameRest.alone ha) hstay (by rw [hcount, hpoll.sameRest.params_eq]; omega)
      exact ⟨t, (hpoll.trans hpolls).widen (by omega) (by omega), hsend, hidx.trans (txPollStep_txIdx s)⟩

/-- Before its first poll, the byte at `TXIDX` is sent after 1 to `TX_POLL_MAX` polls (41_frame_encoder.md R74, R75). -/
theorem polls_and_byte {s : State} (ha : alone s) (ht : s.txState = .poll) (hp : s.txPoll = 0)
    (hmax : 1 ≤ s.params.txPollMax) :
    ∃ t, Sends s t [(s.txBuf[s.txIdx]?).getD 0] 1 s.params.txPollMax ∧ t.txIdx = s.txIdx + 1 ∧ t.txPoll = 0 ∧
      t.txState = if s.txIdx + 1 = 22 then .idle else .poll := by
  obtain ⟨u, hpolls, hsend, hidx⟩ := polls_reach_send (s.params.txPollMax - 1) ha ht (by omega)
  have hall := hpolls.trans (sends_byte (hpolls.sameRest.alone ha) hsend)
  rw [Nat.sub_add_cancel hmax, hpolls.sameRest.txBuf_eq, hidx] at hall
  exact ⟨txSendStep u, hall, by rw [txSendStep_eq, ← hidx], by rw [txSendStep_eq], by rw [txSendStep_eq, ← hidx]⟩

/-- The bytes of `TXBUF` from `TXIDX` on: the one there, and the rest. -/
theorem drop_txBuf (buf : Vector Byte 22) {k : Nat} (hk : k < 22) :
    buf.toList.drop k = (buf[k]?).getD 0 :: buf.toList.drop (k + 1) := by
  have hlen : k < buf.toList.length := by simpa using hk
  rw [List.drop_eq_getElem_cons hlen, byteAt_txBuf buf hk, Vector.getElem_toList]

/-- With `n + 1` bytes of the frame to go, they are sent and ENCODE_SEND ends (41_frame_encoder.md R76). -/
theorem sends_rest_of_frame (n : Nat) {s : State} (ha : alone s) (ht : s.txState = .poll) (hp : s.txPoll = 0)
    (hmax : 1 ≤ s.params.txPollMax) (hn : s.txIdx + (n + 1) = 22) :
    ∃ t, Sends s t (s.txBuf.toList.drop s.txIdx) (n + 1) ((n + 1) * s.params.txPollMax) ∧ t.txState = .idle := by
  induction n generalizing s with
  | zero =>
    obtain ⟨t, hbyte, -, -, hstate⟩ := polls_and_byte ha ht hp hmax
    have hlast : s.txBuf.toList.drop (s.txIdx + 1) = [] := List.drop_eq_nil_of_le (by simp [hn])
    rw [drop_txBuf s.txBuf (by omega), hlast, Nat.zero_add, Nat.one_mul]
    exact ⟨t, hbyte, hstate.trans (if_pos hn)⟩
  | succ n ih =>
    obtain ⟨u, hbyte, hidx, hpoll, hstate⟩ := polls_and_byte ha ht hp hmax
    have hsame := hbyte.sameRest
    obtain ⟨t, hrest, hidle⟩ := ih (hsame.alone ha) (hstate.trans (if_neg (by omega))) hpoll
      (hsame.params_eq ▸ hmax) (by omega)
    rw [hsame.txBuf_eq, hidx, hsame.params_eq] at hrest
    rw [drop_txBuf s.txBuf (by omega), Nat.succ_mul (n + 1), Nat.add_comm (n + 1) 1, Nat.add_comm _ s.params.txPollMax]
    exact ⟨t, hbyte.trans hrest, hidle⟩

/-- The encoder at the start of a frame sends it whole and is idle again, after 22 to `22 × TX_POLL_MAX` polls. -/
theorem sends_frame {s : State} (ha : alone s) (ht : s.txState = .poll) (hidx : s.txIdx = 0) (hp : s.txPoll = 0)
    (hmax : 1 ≤ s.params.txPollMax) :
    ∃ t, Sends s t s.txBuf.toList 22 (22 * s.params.txPollMax) ∧ t.txState = .idle := by
  have h := sends_rest_of_frame 21 ha ht hp hmax (by rw [hidx])
  rwa [hidx, List.drop_zero] at h

/-- Settles O31: the snapshot puts the encoder at the start of its frame, and sending it leaves the rest of the state. -/
theorem encodeSendAppendsExactlyItsFrame : Obligations.EncodeSendAppendsExactlyItsFrame := by
  unfold Obligations.EncodeSendAppendsExactlyItsFrame
  intro line s h1 hfree ha hl hmax
  obtain ⟨buf, hbuf, hsnap⟩ := snapshot_eq line s
  obtain ⟨t, hsends, hidle⟩ := sends_frame
    (s := { s with txBuf := buf, txIdx := 0, txPoll := 0, txState := .poll }) ha rfl rfl rfl hmax
  obtain ⟨⟨k, hrun⟩, hlog, hge, hle, hsame⟩ := hsends
  refine ⟨_, t, k, (exec_encodeSend_of_line hl h1 hfree).trans (congrArg _ hsnap), hrun, hbuf ▸ hlog, hge, hle, ?_⟩
  rw [SameButSending, hidle, ← hfree.1] at hsame
  rw [hsame]

end Sys2Proof.Machine
end

section
/-! PROOFS, family 42_receive_assembler.md, part 1: TRY_RECEIVE's start (O36), its four micro-steps RX_FIRST (O37),
RX_COLLECT (O38), RX_CHECK (O39) and RX_DRAIN (O40), and that of all steps only an accepting RX_CHECK and INIT change
`BUTTONS` (O42). -/

open Sys2Proof.Claims

namespace Sys2Proof.Machine

/-! ### The start of TRY_RECEIVE -/

theorem exec_tryReceive_before {s : State} (h0 : s.initDone = false) :
    exec .tryReceive s = .refused .notInitialised := by
  rw [exec, execTryReceive, onSequencerPort, requireInit_before h0]

/-- TRY_RECEIVE on a free port only makes `RX_STATE` RX_FIRST (42_receive_assembler.md R78). -/
theorem exec_tryReceive_of_free {s : State} (h1 : s.initDone = true) (hfree : portFree s) :
    exec .tryReceive s = .next { s with rxState := .first } := by
  rw [exec, execTryReceive, onSequencerPort_of_free h1 ((portBusy_false_iff s).2 hfree)]

/-- Settles O36: no bit of the word is free, and the guards of the sequencer port come before the start. -/
theorem tryReceiveStartsTheAssembler : Obligations.TryReceiveStartsTheAssembler := by
  unfold Obligations.TryReceiveStartsTheAssembler
  intro s
  exact ⟨(word_eq_iff_decodes 0x8 rfl rfl rfl).1 rfl, exec_tryReceive_before, exec_tryReceive_of_free⟩

/-! ### SEQ's turn while a burst is being received -/

theorem seqTurn_of_portBusy {s : State} (hb : s.portBusy = true) : seqTurn s = .next (microStep s) := if_pos hb

theorem portBusy_of_receiving {s : State} (hr : s.rxState ≠ .idle) : s.portBusy = true := by
  simp [State.portBusy, hr]

section
variable {s : State} (ht : s.txState = .idle)
include ht

theorem seqTurn_of_first (hr : s.rxState = .first) : seqTurn s = .next (rxFirstStep s) := by
  rw [seqTurn_of_portBusy (portBusy_of_receiving (by simp [hr]))]
  simp only [microStep, ht, hr]

theorem seqTurn_of_collect (hr : s.rxState = .collect) : seqTurn s = .next (rxCollectStep s) := by
  rw [seqTurn_of_portBusy (portBusy_of_receiving (by simp [hr]))]
  simp only [microStep, ht, hr]

theorem seqTurn_of_check (hr : s.rxState = .check) : seqTurn s = .next (rxCheckStep s) := by
  rw [seqTurn_of_portBusy (portBusy_of_receiving (by simp [hr]))]
  simp only [microStep, ht, hr]

theorem seqTurn_of_drain (hr : s.rxState = .drain) : seqTurn s = .next (rxDrainStep s) := by
  rw [seqTurn_of_portBusy (portBusy_of_receiving (by simp [hr]))]
  simp only [microStep, ht, hr]

end

/-! ### RX_FIRST and RX_COLLECT -/

/-- An index in range is written. -/
theorem setIfInBounds_rxBuf (buf : Vector Byte 17) {k : Nat} (hk : k < 17) (b : Byte) :
    buf.setIfInBounds k b = buf.set k b := by
  ext i hi
  simp [Vector.getElem_set, Vector.getElem_setIfInBounds]

/-- Settles O37: SEQ's turn is RX_FIRST, which branches on the read. -/
theorem rxFirstReadsOneByte : Obligations.RxFirstReadsOneByte := by
  unfold Obligations.RxFirstReadsOneByte
  intro s ht hr
  rw [seqTurn_of_first ht hr]
  refine ⟨fun hq => by rw [rxFirstStep_none hq], fun b rest hq => ?_⟩
  rw [rxFirstStep_byte hq, setIfInBounds_rxBuf s.rxBuf (by decide)]

/-- Settles O38: SEQ's turn is RX_COLLECT, which branches on `RXCNT` and then on the read; below 17 `RXBUF` has room. -/
theorem rxCollectReadsUpToSeventeen : Obligations.RxCollectReadsUpToSeventeen := by
  unfold Obligations.RxCollectReadsUpToSeventeen
  intro s ht hr
  rw [seqTurn_of_collect ht hr]
  refine ⟨fun hfull => by rw [rxCollectStep_full hfull], fun _ hq => by rw [rxCollectStep_none hq],
    fun b rest hlt hq => ?_⟩
  rw [rxCollectStep_byte hlt.ne hq, setIfInBounds_rxBuf s.rxBuf hlt]

/-! ### RX_CHECK and RX_DRAIN -/

theorem rxHeaderOk_iff (s : State) :
    s.rxHeaderOk = true ↔ s.rxBuf[0] = 0xAA ∧ s.rxBuf[1] = 0x55 ∧ s.rxBuf[2] = 0x16 := by
  simp only [State.rxHeaderOk, Bool.and_eq_true, decide_eq_true_eq, and_assoc]

/-- The accept predicate, written out (42_receive_assembler.md R81). -/
theorem rxAccept_iff (s : State) :
    s.rxAccept = true ↔
      s.rxCnt = 6 ∧ (s.rxBuf[0] = 0xAA ∧ s.rxBuf[1] = 0x55 ∧ s.rxBuf[2] = 0x16) ∧ s.rxBuf[4] + s.rxBuf[5] = 0 := by
  simp only [State.rxAccept, State.rxSumOk, Bool.and_eq_true, decide_eq_true_eq, rxHeaderOk_iff, and_assoc]

/-- Settles O39: SEQ's turn is RX_CHECK, whose tests are those of R81, and the counter it counts is the only one. -/
theorem rxCheckAcceptsOrDiscards : Obligations.RxCheckAcceptsOrDiscards := by
  unfold Obligations.RxCheckAcceptsOrDiscards
  intro s ht hr
  rw [seqTurn_of_check ht hr]
  simp only [rxCheckStep, bump_eq_counted, rxAccept_iff, Bool.not_eq_true', ← Bool.not_eq_true, rxHeaderOk_iff]
  split_ifs <;> rfl

/-- Settles O40: SEQ's turn is RX_DRAIN, which branches on the read. -/
theorem rxDrainDiscardsUntilNone : Obligations.RxDrainDiscardsUntilNone := by
  unfold Obligations.RxDrainDiscardsUntilNone
  intro s ht hr
  rw [seqTurn_of_drain ht hr]
  refine ⟨fun hq => by rw [rxDrainStep_none hq], fun b rest hq => ?_⟩
  rw [rxDrainStep_byte hq, bump_eq_counted]
  rfl

/-! ### What changes `BUTTONS` -/

/-- Of the host commands only INIT changes `BUTTONS`, and it sets it to 0 (10_state.md R19). -/
theorem HostCase.buttons_cases {i : Instr} {s t : State} (hc : HostCase i s t) :
    t.buttons = s.buttons ∨ ∃ port, i = .init port ∧ s.initDone = false ∧ t.buttons = 0 := by
  cases hc with
  | init port d hi h0 => exact .inr ⟨port, hi, h0, rfl⟩
  | noop h1 => exact .inl (bump_buttons _ _)
  | _ => exact .inl rfl

/-- Of the micro-steps only an accepting RX_CHECK changes `BUTTONS`, to byte 4 of the burst
(42_receive_assembler.md R82). -/
theorem MicroCase.buttons_cases {s t : State} (hc : MicroCase s t) :
    t.buttons = s.buttons ∨
      (s.txState = .idle ∧ s.rxState = .check ∧ s.rxAccept = true ∧ t.buttons = s.rxBuf[4]) := by
  cases hc with
  | check d ht hr =>
    by_cases ha : s.rxAccept = true
    · exact .inr ⟨ht, hr, ha, if_pos ha⟩
    · exact .inl (if_neg ha)
  | _ => exact .inl rfl

/-- A step leaves `BUTTONS`, is an accepting RX_CHECK, or runs INIT for the first time. -/
theorem StepCase.buttons_cases {s t : State} (hc : StepCase s t) :
    t.buttons = s.buttons ∨
    (s.txState = .idle ∧ s.rxState = .check ∧ s.rxAccept = true ∧ t.buttons = s.rxBuf[4]) ∨
    (∃ p port, s.nextMove.1 = .host p ∧ decodeCommand p = .ok (.init port) ∧ s.initDone = false ∧
      t.buttons = 0) := by
  cases hc with
  | host p l n i hm hd hp hc =>
    obtain hsame | ⟨port, rfl, h0, hzero⟩ := hc.buttons_cases
    · exact .inl hsame
    · exact .inr (.inr ⟨p, port, hm, hd, h0, hzero⟩)
  | micro l n hb => exact (microStep_case hb).buttons_cases.imp_right .inl
  | stutter l n => exact .inl rfl
  | advance l n hb hp => exact .inl (by rw [seqAdvance_frame])
  | issue l n p script i hb h1 hp hn hd hc => exact .inl (by rw [hc.frame])
  | arrival l n bytes hm => exact .inl rfl

/-- Settles O42: a step that does not leave `BUTTONS` is an accepting RX_CHECK, or an INIT not refused. -/
theorem buttonsChangeOnlyOnAcceptOrInit : Obligations.ButtonsChangeOnlyOnAcceptOrInit := by
  unfold Obligations.ButtonsChangeOnlyOnAcceptOrInit
  intro s t hs hne
  refine ((step_case hs).buttons_cases.resolve_left hne).imp_left fun ⟨ht, hr, ha, hbyte⟩ => ?_
  obtain ⟨hcnt, ⟨h0, h1, h2⟩, hsum⟩ := (rxAccept_iff s).1 ha
  exact ⟨ht, hr, hcnt, h0, h1, h2, hsum, hbyte⟩

end Sys2Proof.Machine
end

section
/-! PROOFS, family 42_receive_assembler.md, part 2: a whole TRY_RECEIVE left alone (O41). Collecting moves bytes from the
head of `RXQ` to `RXBUF`, so the two together stay the burst; the collection ends with the whole burst in `RXBUF` or with
more bytes than a burst accepted has; the drain then empties `RXQ`. -/

open Sys2Proof.Claims

namespace Sys2Proof.Machine

/-! ### Runs of the receiver left alone -/

/-- Left alone, SEQ's turn is the next step of the machine. -/
theorem run_one_of_seqTurn {s t : State} (ha : alone s) (h : seqTurn s = .next t) :
    Sys2Proof.core.run 1 s = .next t := by
  have hstep : Sys2Proof.core.step s = .next t := by
    rw [Host.Check.core_step, step, nextMove_alone ha.1 ha.2]
    exact h
  simp only [Host.Core.run, hstep]

/-- Some run leads from `s` to `t`; of `s` only the receive registers, `RXQ`, the counters and `BUTTONS`, which ends as
`v`, change. -/
structure Receives (s t : State) (v : Byte) : Prop where
  run      : ∃ k, Sys2Proof.core.run k s = .next t
  sameRest : t = { s with
    buttons := v, rxq := t.rxq, rxBuf := t.rxBuf, rxCnt := t.rxCnt, rxState := t.rxState, diag := t.diag }

theorem Receives.trans {s t u : State} {v w : Byte} (h : Receives s t v) (h' : Receives t u w) : Receives s u w := by
  obtain ⟨j, hj⟩ := h.run
  obtain ⟨k, hk⟩ := h'.run
  exact { run := ⟨j + k, (run_add k hj).trans hk⟩, sameRest := h'.sameRest.trans (by rw [h.sameRest]) }

theorem Receives.alone {s t : State} {v : Byte} (h : Receives s t v) (ha : alone s) : alone t := by
  rw [h.sameRest]; exact ha

theorem Receives.txState_idle {s t : State} {v : Byte} (h : Receives s t v) (ht : s.txState = .idle) :
    t.txState = .idle := by
  rw [h.sameRest]; exact ht

theorem Receives.buttons_eq {s t : State} {v : Byte} (h : Receives s t v) : t.buttons = v := by rw [h.sameRest]

/-- A turn of SEQ that changes no more than that is such a run. -/
theorem receives_of_seqTurn {s t : State} {v : Byte} (ha : alone s) (h : seqTurn s = .next t)
    (hsame : t = { s with
      buttons := v, rxq := t.rxq, rxBuf := t.rxBuf, rxCnt := t.rxCnt, rxState := t.rxState, diag := t.diag }) :
    Receives s t v :=
  ⟨⟨1, run_one_of_seqTurn ha h⟩, hsame⟩

/-! ### The burst while it is collected -/

/-- The bytes collected, and those still pending after them. -/
def State.burst (s : State) : List Byte := s.rxBuf.toList.take s.rxCnt ++ s.rxq

/-- A byte stored at index `k` is the last of the first `k + 1`. -/
theorem take_succ_set_rxBuf (buf : Vector Byte 17) {k : Nat} (hk : k < 17) (b : Byte) :
    (buf.set k b).toList.take (k + 1) = buf.toList.take k ++ [b] := by
  have hlen : k < (buf.toList.set k b).length := by simpa using hk
  rw [Vector.toList_set, List.take_succ_eq_append_getElem hlen, List.getElem_set_self,
    List.take_set_of_le (Nat.le_refl k)]

/-- Storing the head of `RXQ` at `RXCNT` leaves the burst as it is (42_receive_assembler.md R80). -/
theorem burst_store {s : State} {b : Byte} {rest : List Byte} (hlt : s.rxCnt < 17) (hq : s.rxq = b :: rest) :
    State.burst { s with rxq := rest, rxBuf := s.rxBuf.set s.rxCnt b, rxCnt := s.rxCnt + 1 } = s.burst := by
  simp only [State.burst, take_succ_set_rxBuf s.rxBuf hlt, hq, List.append_assoc, List.singleton_append]

/-- The byte RX_FIRST stores is the first of the burst (42_receive_assembler.md R79). -/
theorem burst_first (s : State) (b : Byte) (rest : List Byte) :
    State.burst { s with rxq := rest, rxBuf := s.rxBuf.set 0 b, rxCnt := 1, rxState := .collect } = b :: rest :=
  congrArg (· ++ rest) (take_succ_set_rxBuf s.rxBuf (by decide) b)

/-- The collection is over: RX_CHECK is next, and there was no more room or no more to read (42_receive_assembler.md
R80). -/
structure Collected (t : State) : Prop where
  toCheck : t.rxState = .check
  cntLe   : t.rxCnt ≤ 17
  ended   : t.rxCnt = 17 ∨ t.rxq = []

/-- RX_COLLECT left alone goes on to RX_CHECK with the same burst, by induction on what is pending
(42_receive_assembler.md R80). -/
theorem receives_collection (q : List Byte) {s : State} (hq : s.rxq = q) (ha : alone s) (ht : s.txState = .idle)
    (hr : s.rxState = .collect) (hle : s.rxCnt ≤ 17) :
    ∃ t, Receives s t s.buttons ∧ Collected t ∧ t.burst = s.burst := by
  induction q generalizing s with
  | nil =>
    have hturn := seqTurn_of_collect ht hr
    rw [rxCollectStep_none hq] at hturn
    exact ⟨_, receives_of_seqTurn ha hturn rfl, ⟨rfl, hle, .inr hq⟩, rfl⟩
  | cons b rest ih =>
    have hturn := seqTurn_of_collect ht hr
    obtain hfull | hlt := hle.eq_or_lt
    · rw [rxCollectStep_full hfull] at hturn
      exact ⟨_, receives_of_seqTurn ha hturn rfl, ⟨rfl, hle, .inl hfull⟩, rfl⟩
    · rw [rxCollectStep_byte hlt.ne hq, setIfInBounds_rxBuf s.rxBuf hlt] at hturn
      obtain ⟨t, hrest, hend, hburst⟩ :=
        ih (s := { s with rxq := rest, rxBuf := s.rxBuf.set s.rxCnt b, rxCnt := s.rxCnt + 1 }) rfl ha ht hr hlt
      exact ⟨t, (receives_of_seqTurn ha hturn rfl).trans hrest, hend, hburst.trans (burst_store hlt hq)⟩

/-! ### RX_CHECK and the whole burst -/

theorem length_burst {s : State} (hle : s.rxCnt ≤ 17) : s.burst.length = s.rxCnt + s.rxq.length := by
  simp [State.burst, hle]

/-- A burst of any length but six is discarded (42_receive_assembler.md R81). -/
theorem acceptedBurst_of_length_ne {bytes : List Byte} (h : bytes.length ≠ 6) : acceptedBurst bytes = none := by
  unfold acceptedBurst
  split
  · exact absurd rfl h
  · rfl

/-- A burst of six bytes wholly collected is the first six bytes of `RXBUF`. -/
theorem burst_of_six {s : State} (h6 : s.rxCnt = 6) (hq : s.rxq = []) :
    s.burst = [s.rxBuf[0], s.rxBuf[1], s.rxBuf[2], s.rxBuf[3], s.rxBuf[4], s.rxBuf[5]] := by
  rw [State.burst, h6, hq, List.append_nil]
  apply List.ext_getElem (by simp)
  intro i hi _
  have hlt : i < 6 := by simpa using hi
  interval_cases i <;> simp

/-- RX_CHECK decides on `RXBUF` as the accept predicate does on the whole burst (42_receive_assembler.md R81, R84). -/
theorem Collected.check_eq_acceptedBurst {s : State} (h : Collected s) :
    (if s.rxAccept then s.rxBuf[4] else s.buttons) = (acceptedBurst s.burst).getD s.buttons := by
  by_cases h6 : s.rxCnt = 6
  · have hq : s.rxq = [] := h.ended.resolve_left (by omega)
    rw [burst_of_six h6 hq, acceptedBurst]
    simp only [rxAccept_iff, h6, true_and, and_assoc]
    split <;> rfl
  · have hlen : s.burst.length ≠ 6 := by
      rw [length_burst h.cntLe]
      obtain hfull | hq := h.ended
      · omega
      · simpa [hq] using h6
    rw [acceptedBurst_of_length_ne hlen, if_neg fun ha => h6 ((rxAccept_iff s).1 ha).1]
    rfl

/-- RX_CHECK left alone takes the buttons byte of an acceptable burst and goes on to the drain
(42_receive_assembler.md R82). -/
theorem receives_check {s : State} (ha : alone s) (ht : s.txState = .idle) (h : Collected s) :
    ∃ t, Receives s t ((acceptedBurst s.burst).getD s.buttons) ∧ t.rxState = .drain := by
  have hturn := seqTurn_of_check ht h.toCheck
  rw [rxCheckStep_eq, h.check_eq_acceptedBurst] at hturn
  exact ⟨_, receives_of_seqTurn ha hturn rfl, rfl⟩

/-! ### The drain and the whole command -/

/-- TRY_RECEIVE has ended, with nothing pending. -/
def Drained (t : State) : Prop := t.rxq = [] ∧ t.rxState = .idle

/-- RX_DRAIN left alone empties `RXQ` and ends the command (42_receive_assembler.md R83, R85). -/
theorem receives_drain (q : List Byte) {s : State} (hq : s.rxq = q) (ha : alone s) (ht : s.txState = .idle)
    (hr : s.rxState = .drain) : ∃ t, Receives s t s.buttons ∧ Drained t := by
  have hturn := seqTurn_of_drain ht hr
  induction q generalizing s with
  | nil =>
    rw [rxDrainStep_none hq] at hturn
    exact ⟨_, receives_of_seqTurn ha hturn rfl, hq, rfl⟩
  | cons b rest ih =>
    rw [rxDrainStep_byte hq, bump_eq_counted] at hturn
    obtain ⟨t, hrest, hend⟩ := ih (s := counted { s with rxq := rest } 4) rfl ha ht hr (seqTurn_of_drain ht hr)
    exact ⟨t, (receives_of_seqTurn ha hturn rfl).trans hrest, hend⟩

/-- RX_FIRST left alone: nothing pending ends the command; otherwise collection, check and drain follow
(42_receive_assembler.md R84 to R86). -/
theorem receives_burst {s : State} (ha : alone s) (ht : s.txState = .idle) (hr : s.rxState = .first) :
    ∃ t, Receives s t ((acceptedBurst s.rxq).getD s.buttons) ∧ Drained t := by
  have hturn := seqTurn_of_first ht hr
  cases hq : s.rxq with
  | nil =>
    rw [rxFirstStep_none hq] at hturn
    exact ⟨_, receives_of_seqTurn ha hturn rfl, hq, rfl⟩
  | cons b rest =>
    rw [rxFirstStep_byte hq, setIfInBounds_rxBuf s.rxBuf (by decide)] at hturn
    have hfirst := receives_of_seqTurn ha hturn rfl
    obtain ⟨t1, hcollect, hend, hburst⟩ := receives_collection rest rfl (hfirst.alone ha) (hfirst.txState_idle ht) rfl
      (show 1 ≤ 17 by decide)
    have h1 := hfirst.trans hcollect
    obtain ⟨t2, hcheck, hr2⟩ := receives_check (h1.alone ha) (h1.txState_idle ht) hend
    rw [hburst, burst_first, h1.buttons_eq] at hcheck
    have h2 := h1.trans hcheck
    obtain ⟨t3, hdrain, hdone⟩ := receives_drain t2.rxq rfl (h2.alone ha) (h2.txState_idle ht) hr2
    rw [h2.buttons_eq] at hdrain
    exact ⟨t3, h2.trans hdrain, hdone⟩

/-- Settles O41: the command starts in RX_FIRST, and the receiver left alone goes through the burst from there. -/
theorem tryReceiveOutcomeOfABurst : Obligations.TryReceiveOutcomeOfABurst := by
  unfold Obligations.TryReceiveOutcomeOfABurst
  intro s h1 hfree ha
  obtain ⟨t, ⟨⟨k, hrun⟩, hsame⟩, hq, hr⟩ := receives_burst (s := { s with rxState := .first }) ha hfree.1 rfl
  refine ⟨_, t, k, exec_tryReceive_of_free h1 hfree, hrun, ?_⟩
  rw [hq, hr, ← hfree.2] at hsame
  exact hsame

end Sys2Proof.Machine
end

section
/-! PROOFS, family 43_polling_sequencer.md, part 1: a whole polling cycle left alone (O50). SEQ issues the command of its
step, the command runs to its end, and SEQ advances; so every step of the cycle has the effect of its row of R88, and the
cycle is eight of them. -/

open Sys2Proof.Claims

namespace Sys2Proof.Machine

/-! ### The commands of the cycle and their effects -/

/-- The commands the cycle is made of (43_polling_sequencer.md R88). -/
inductive PollCommand : Instr → Prop where
  | encodeSend (line : Byte) (hl : line.toNat ≤ 1) : PollCommand (.encodeSend line)
  | tryReceive : PollCommand .tryReceive
  | wait (ms : Millis) : PollCommand (.wait ms)

theorem pollCommand_cycleCommand (p : Params) (k : SeqStep) : PollCommand (cycleCommand p k) := by
  cases k with
  | step1 => exact .encodeSend 0 (by decide)
  | step5 => exact .encodeSend 1 (by decide)
  | step3 | step7 => exact .tryReceive
  | step2 | step4 | step6 | step8 => exact .wait _

theorem PollCommand.port_eq {i : Instr} (hi : PollCommand i) : i.port = .sequencer := by
  cases hi <;> rfl

theorem PollCommand.not_absent {i : Instr} (hi : PollCommand i) (p : Params) : absentCommand p i = false := by
  cases hi <;> rfl

/-- What a command of the cycle, run to its end and left alone, leaves in the registers and streams that outlast it: the
frame in `TXLOG` (41_frame_encoder.md R76), the burst judged and drained (42_receive_assembler.md R84 to R86), the delay in
`WAIT_MS` (43_polling_sequencer.md R87). The cycle has no other command. -/
def commandEffect : Instr → State → State
  | .encodeSend line, s => { s with txLog := s.txLog ++ frame line s.backlight (s.lineStore line) }
  | .tryReceive, s => { s with rxq := [], buttons := (acceptedBurst s.rxq).getD s.buttons }
  | .wait ms, s => { s with waitMs := ms }
  | _, s => s

theorem commandEffect_frame (i : Instr) (s : State) :
    commandEffect i s = { s with
      txLog := (commandEffect i s).txLog, rxq := (commandEffect i s).rxq, buttons := (commandEffect i s).buttons,
      waitMs := (commandEffect i s).waitMs } := by
  cases i <;> rfl

/-- The same but for the buffers and counts of the two machines of the port, the counters, and the answers of `TxReady`
used up. -/
def SameButBuffers (s t : State) : Prop :=
  t = { s with
    txBuf := t.txBuf, txIdx := t.txIdx, txPoll := t.txPoll, rxBuf := t.rxBuf, rxCnt := t.rxCnt, diag := t.diag,
    readyAnswers := t.readyAnswers, readyCalls := t.readyCalls }

theorem SameButBuffers.trans {s t u : State} (hst : SameButBuffers s t) (htu : SameButBuffers t u) :
    SameButBuffers s u :=
  Eq.trans htu (by rw [hst])

theorem commandEffect_withPhase (i : Instr) (s : State) (phase : SeqPhase) :
    commandEffect i { s with seqPhase := phase } = { commandEffect i s with seqPhase := phase } := by
  cases i <;> rfl

/-! ### One command of the cycle, from its issue to the advance -/

/-- WAIT on a free port only records its delay (43_polling_sequencer.md R87). -/
theorem exec_wait_of_free {s : State} (h1 : s.initDone = true) (hfree : portFree s) (ms : Millis) :
    exec (.wait ms) s = .next { s with waitMs := ms } := by
  rw [exec, execWait, onSequencerPort_of_free h1 ((portBusy_false_iff s).2 hfree)]

/-- SEQ left alone in `AUTO` mode with no command in progress, after INIT (43_polling_sequencer.md R89). -/
structure BetweenCommands (s : State) : Prop where
  initDone : s.initDone = true
  free     : portFree s
  alone    : alone s
  auto     : s.params.seqMode = .auto
  polls    : 1 ≤ s.params.txPollMax

/-- A command of the cycle left alone runs to its end with its effect and no other: what is known of ENCODE_SEND and
TRY_RECEIVE left alone, and WAIT ends where it starts. -/
theorem BetweenCommands.run_command {s : State} (h : BetweenCommands s) {i : Instr} (hi : PollCommand i) :
    ∃ (s1 t : State) (k : Nat), exec i s = .next s1 ∧ Sys2Proof.core.run k s1 = .next t ∧
      SameButBuffers (commandEffect i s) t := by
  obtain ⟨h1, hfree, ha, -, hmax⟩ := h
  cases hi with
  | encodeSend line hl =>
    obtain ⟨s1, t, k, hexec, hrun, hlog, -, -, hsame⟩ :=
      encodeSendAppendsExactlyItsFrame line s h1 hfree ha hl hmax
    rw [hlog] at hsame
    exact ⟨s1, t, k, hexec, hrun, hsame.trans (by rw [hsame]; rfl)⟩
  | tryReceive =>
    obtain ⟨s1, t, k, hexec, hrun, hsame⟩ := tryReceiveOutcomeOfABurst s h1 hfree ha
    exact ⟨s1, t, k, hexec, hrun, hsame.trans (by rw [hsame]; rfl)⟩
  | wait ms => exact ⟨_, _, 0, exec_wait_of_free h1 hfree ms, rfl, rfl⟩

/-- A command of the cycle neither reads nor writes `SEQ_PHASE`, so it may be marked busy before it starts. -/
theorem BetweenCommands.markBusy_exec {s : State} (h : BetweenCommands s) {i : Instr} (hi : PollCommand i) :
    markBusy (exec i s) = exec i { s with seqPhase := .busy } := by
  obtain ⟨h1, hfree, -, -, -⟩ := h
  cases hi with
  | encodeSend line hl =>
    rw [exec_encodeSend_of_line hl h1 hfree, exec_encodeSend_of_line (s := { s with seqPhase := .busy }) hl h1 hfree]
    rfl
  | tryReceive =>
    rw [exec_tryReceive_of_free h1 hfree, exec_tryReceive_of_free (s := { s with seqPhase := .busy }) h1 hfree]
    rfl
  | wait ms =>
    rw [exec_wait_of_free h1 hfree, exec_wait_of_free (s := { s with seqPhase := .busy }) h1 hfree]
    rfl

/-- In `AUTO` mode an issue runs the command of the step and marks it busy (43_polling_sequencer.md R89). -/
theorem BetweenCommands.seqTurn_issue {s : State} (h : BetweenCommands s) (hphase : s.seqPhase = .issue) :
    seqTurn s = markBusy (exec (cycleCommand s.params s.seqStep) s) := by
  have hpoll := pollCommand_cycleCommand s.params s.seqStep
  rw [seqTurn, if_neg (by simp [(portBusy_false_iff s).2 h.free]), hphase]
  simp only [seqIssue_of (.inl ⟨h.auto, rfl, rfl⟩), deliver, decodeCommand_cycleCommand, hpoll.not_absent, hpoll.port_eq,
    Bool.false_eq_true, ne_eq, not_true_eq_false, if_false]

/-- In `AUTO` mode a command that has completed is advanced from (43_polling_sequencer.md R89). -/
theorem BetweenCommands.seqTurn_advance {s : State} (h : BetweenCommands s) (hphase : s.seqPhase = .busy) :
    seqTurn s = .next { s with seqStep := nextStep s.seqStep, seqPhase := .issue } := by
  rw [seqTurn, if_neg (by simp [(portBusy_false_iff s).2 h.free]), hphase]
  simp only [seqAdvance, h.auto]

/-! ### The steps of the cycle -/

/-- What a step of the cycle, from its issue to the advance, comes to: the effect of its command, and the next step, ready
to issue (43_polling_sequencer.md R89). -/
def afterStep (s : State) : State :=
  { commandEffect (cycleCommand s.params s.seqStep) s with seqStep := nextStep s.seqStep, seqPhase := .issue }

theorem SameButBuffers.afterStep {s t : State} (h : SameButBuffers s t) :
    SameButBuffers (afterStep s) (afterStep t) := by
  rw [h]
  simp only [Machine.afterStep]
  cases cycleCommand s.params s.seqStep <;> rfl

/-- Left alone, SEQ goes through the step of the cycle it is about to issue (43_polling_sequencer.md R88, R89). -/
theorem BetweenCommands.run_step {s : State} (h : BetweenCommands s) (hphase : s.seqPhase = .issue) :
    ∃ (k : Nat) (t : State), 0 < k ∧ Sys2Proof.core.run k s = .next t ∧ SameButBuffers (afterStep s) t := by
  have hpoll := pollCommand_cycleCommand s.params s.seqStep
  have hbusy : BetweenCommands { s with seqPhase := .busy } := { h with }
  obtain ⟨s1, u, k, hexec, hrun, hsame⟩ := hbusy.run_command hpoll
  rw [commandEffect_withPhase] at hsame
  have hissue := run_one_of_seqTurn h.alone
    ((h.seqTurn_issue hphase).trans ((h.markBusy_exec hpoll).trans hexec))
  have hu : BetweenCommands u := by
    rw [hsame, commandEffect_frame]
    exact { h with }
  have hadvance := run_one_of_seqTurn hu.alone (hu.seqTurn_advance (by rw [hsame]))
  refine ⟨1 + (k + 1), _, by omega, (run_add _ hissue).trans ((run_add 1 hrun).trans hadvance), ?_⟩
  have hstep : u.seqStep = s.seqStep := by rw [hsame, commandEffect_frame]
  rw [hstep, hsame]
  rfl

/-- Left alone, SEQ goes through any number of steps of the cycle, one after another (43_polling_sequencer.md R88). -/
theorem BetweenCommands.run_steps {s : State} (h : BetweenCommands s) (hphase : s.seqPhase = .issue) (n : Nat) :
    ∃ (k : Nat) (t : State), n ≤ k ∧ Sys2Proof.core.run k s = .next t ∧ SameButBuffers (afterStep^[n] s) t ∧
      BetweenCommands t ∧ t.seqPhase = .issue := by
  induction n with
  | zero => exact ⟨0, s, Nat.le_refl 0, rfl, rfl, h, hphase⟩
  | succ n ih =>
    obtain ⟨k, u, hk, hrun, hsame, hu, hissue⟩ := ih
    obtain ⟨j, t, hj, hstep, hnext⟩ := hu.run_step hissue
    have ht : BetweenCommands t := by
      rw [hnext, afterStep, commandEffect_frame]
      exact { hu with }
    rw [Function.iterate_succ_apply']
    exact ⟨k + j, t, by omega, (run_add j hrun).trans hstep, hsame.afterStep.trans hnext, ht, by rw [hnext]; rfl⟩

/-- Eight steps are the whole cycle: from step 1 to step 1, both frames sent, the burst taken (the second TRY_RECEIVE finds
nothing left), and the last WAIT's delay recorded (43_polling_sequencer.md R88). -/
theorem afterStep_eight {s : State} (hstep : s.seqStep = .step1) :
    afterStep^[8] s = { s with
      seqStep := .step1, seqPhase := .issue,
      txLog := s.txLog ++ frame 0 s.backlight (s.lineStore 0) ++ frame 1 s.backlight (s.lineStore 1),
      buttons := (acceptedBurst s.rxq).getD s.buttons, rxq := [], waitMs := s.params.tRecvWait } := by
  simp only [Function.iterate_succ_apply, Function.iterate_zero_apply, afterStep, hstep, nextStep, cycleCommand,
    commandEffect]
  rfl

/-- Settles O50: eight steps of the cycle, by induction on the steps, and what they come to. -/
theorem pollingCycleSendsBothLines : Obligations.PollingCycleSendsBothLines := by
  unfold Obligations.PollingCycleSendsBothLines
  intro s h1 hfree ha hauto hmax hphase hstep
  obtain ⟨k, t, hk, hrun, hsame, ht, hissue⟩ := BetweenCommands.run_steps ⟨h1, hfree, ha, hauto, hmax⟩ hphase 8
  rw [afterStep_eight hstep] at hsame
  refine ⟨k, t, hrun, by omega, ht.free, hissue, ?_⟩
  rw [hsame]
  exact ⟨rfl, rfl, rfl, rfl, rfl, rfl, rfl, rfl⟩

end Sys2Proof.Machine
end

section
/-! PROOFS, family 43_polling_sequencer.md, part 2: nothing stops the sequencer or un-initialises the block (O48), and only
an advance and INIT move `SEQ_STEP` (O49). -/

open Sys2Proof.Claims

namespace Sys2Proof.Machine

/-! ### What keeps the sequencer going -/

/-- From the first state to the second the sequencer did not stop, nor was `INIT_DONE` cleared. -/
def GoesOn (s t : State) : Prop :=
  (s.seqPhase ≠ .stopped → t.seqPhase ≠ .stopped) ∧ (s.initDone = true → t.initDone = true)

theorem GoesOn.of_eq {s t : State} (hphase : t.seqPhase = s.seqPhase) (hinit : t.initDone = s.initDone) : GoesOn s t :=
  ⟨fun h => hphase ▸ h, fun h => hinit.trans h⟩

/-- Of the host commands only INIT writes either register, and it starts the sequencer (40_line_api.md R62). -/
theorem HostCase.goesOn {i : Instr} {s t : State} (hc : HostCase i s t) : GoesOn s t := by
  cases hc with
  | init port d hi h0 => exact ⟨fun _ => nofun, fun _ => rfl⟩
  | noop h1 => exact .of_eq (bump_seqPhase _ _) (bump_initDone _ _)
  | _ => exact .of_eq rfl rfl

/-- An advance leaves `SEQ_PHASE`, at the end of a script, or makes it ISSUE (43_polling_sequencer.md R89). -/
theorem seqAdvance_goesOn (s : State) : GoesOn s (seqAdvance s) := by
  obtain ⟨-, e⟩ | ⟨-, -, e⟩ | ⟨-, -, e⟩ := seqAdvance_cases s
  · rw [e]; exact ⟨fun _ => nofun, id⟩
  · rw [e]; exact .of_eq rfl rfl
  · rw [e]; exact ⟨fun _ => nofun, id⟩

theorem StepCase.goesOn {s t : State} (hc : StepCase s t) : GoesOn s t := by
  cases hc with
  | host p l n i hm hd hp hc => exact hc.goesOn
  | micro l n hb => exact .of_eq (by rw [microStep_frame]) (by rw [microStep_frame])
  | stutter l n => exact .of_eq rfl rfl
  | advance l n hb hp => exact seqAdvance_goesOn { s with inputs := l, drawn := n }
  | issue l n p script i hb h1 hp hn hd hc => exact ⟨fun _ => nofun, fun _ => by rw [hc.frame]; exact h1⟩
  | arrival l n bytes hm => exact .of_eq rfl rfl

/-- Settles O48: a step that writes `SEQ_PHASE` makes it ISSUE or BUSY, and only INIT writes `INIT_DONE`. -/
theorem nothingStopsTheSequencer : Obligations.NothingStopsTheSequencer := by
  unfold Obligations.NothingStopsTheSequencer
  intro s t hs
  exact (step_case hs).goesOn

/-! ### What moves `SEQ_STEP` -/

/-- The step after a step, by number (43_polling_sequencer.md R89). -/
theorem stepNumber_nextStep (k : SeqStep) : stepNumber (nextStep k) = stepNumber k % 8 + 1 := by
  cases k <;> rfl

/-- Of the host commands only INIT moves `SEQ_STEP`, and it goes to step 1 (40_line_api.md R62). -/
theorem HostCase.seqStep_cases {i : Instr} {s t : State} (hc : HostCase i s t) :
    t.seqStep = s.seqStep ∨ ∃ port, i = .init port ∧ s.initDone = false ∧ t.seqStep = .step1 := by
  cases hc with
  | init port d hi h0 =>
    by_cases hauto : s.params.seqMode = .auto
    · exact .inr ⟨port, hi, h0, if_pos hauto⟩
    · exact .inl (if_neg hauto)
  | noop h1 => exact .inl (bump_seqStep _ _)
  | _ => exact .inl rfl

theorem seqAdvance_seqStep (s : State) :
    (seqAdvance s).seqStep = s.seqStep ∨ (seqAdvance s).seqStep = nextStep s.seqStep := by
  obtain ⟨-, e⟩ | ⟨-, -, e⟩ | ⟨-, -, e⟩ := seqAdvance_cases s
  · rw [e]; exact .inr rfl
  · rw [e]; exact .inl rfl
  · rw [e]; exact .inl rfl

/-- A step leaves `SEQ_STEP`, is the advance from a command that has completed, or runs INIT for the first time. -/
theorem StepCase.seqStep_cases {s t : State} (hc : StepCase s t) :
    t.seqStep = s.seqStep ∨
    (portFree s ∧ s.seqPhase = .busy ∧ t.seqStep = nextStep s.seqStep) ∨
    (∃ p port, s.nextMove.1 = .host p ∧ decodeCommand p = .ok (.init port) ∧ s.initDone = false ∧
      t.seqStep = .step1) := by
  cases hc with
  | host p l n i hm hd hp hc =>
    obtain hsame | ⟨port, rfl, h0, hone⟩ := hc.seqStep_cases
    · exact .inl hsame
    · exact .inr (.inr ⟨p, port, hm, hd, h0, hone⟩)
  | micro l n hb => exact .inl (by rw [microStep_frame])
  | stutter l n => exact .inl rfl
  | advance l n hb hp =>
    exact (seqAdvance_seqStep _).imp_right fun hnext => .inl ⟨(portBusy_false_iff s).1 hb, hp, hnext⟩
  | issue l n p script i hb h1 hp hn hd hc => exact .inl (by rw [hc.frame])
  | arrival l n bytes hm => exact .inl rfl

/-- Settles O49: a step that does not leave `SEQ_STEP` is an advance, or an INIT not refused. -/
theorem onlyCompletionMovesTheSequencer : Obligations.OnlyCompletionMovesTheSequencer := by
  unfold Obligations.OnlyCompletionMovesTheSequencer
  intro s t hs hne
  refine ((step_case hs).seqStep_cases.resolve_left hne).imp_left fun ⟨hfree, hbusy, hnext⟩ => ?_
  exact ⟨hfree, hbusy, by rw [hnext, stepNumber_nextStep]⟩

end Sys2Proof.Machine
end

section
/-! PROOFS, family 60_exceptions.md: the order of the refusals (O17) and the arrivals (O44). Behind `Reserved` and
`WrongPort`, every command but INIT is one and the same thing: `requireInit` before a meaning that always goes on. -/

namespace Sys2Proof.Machine

/-! ### What a delivered word comes to -/

/-- No word decodes to a wire frame: a command is one of the host port or of the sequencer port (30_encoding.md R56). -/
theorem decodeCommand_port {p : Packet} {i : Instr} (hd : decodeCommand p = .ok i) :
    i.port = .host ∨ i.port = .sequencer := by
  obtain ⟨hop, -⟩ := decodeCommand_ok_iff.1 hd
  unfold commandOfOpcode at hop
  split at hop
  case h_11 => cases hop
  all_goals cases hop; simp [Instr.port]

/-- Only DIAG_READ can be absent, and it is where there are no counters (30_encoding.md R57). -/
theorem absentCommand_iff {p : Params} {i : Instr} :
    absentCommand p i = true ↔ (∃ idx, i = .diagRead idx) ∧ p.hasDiag = false := by
  cases i <;> simp [absentCommand]

/-- A command the block has is checked for its port, and only then run (60_exceptions.md R98). -/
theorem deliver_of_decodes {p : Packet} {i : Instr} {s : State} (hd : decodeCommand p = .ok i)
    (hpresent : absentCommand s.params i = false) (port : Port) :
    deliver port p s = if i.port ≠ port then .refused .wrongPort else exec i s := by
  simp only [deliver, hd, hpresent, Bool.false_eq_true, if_false]

/-! ### The guard that INIT lifts -/

/-- A meaning that neither faults nor refuses. -/
def AlwaysGoesOn (k : State → Result) : Prop := ∀ s, ∃ t, k s = .next t

theorem alwaysGoesOn_next (f : State → State) : AlwaysGoesOn fun s => .next (f s) := fun s => ⟨f s, rfl⟩

/-- An operand out of range is a silent no-op, never a refusal (60_exceptions.md R96). -/
theorem alwaysGoesOn_argReject_or {bad : Bool} {k : State → Result} (hk : AlwaysGoesOn k) :
    AlwaysGoesOn fun s => if bad then argReject s else k s := by
  split
  · exact alwaysGoesOn_next _
  · exact hk

/-- A busy port makes a command wait, it does not refuse it (20_memory.md R40). -/
theorem alwaysGoesOn_whenPortFree (e : Input) {k : State → Result} (hk : AlwaysGoesOn k) :
    AlwaysGoesOn fun s => whenPortFree e s k := by
  intro s
  cases hb : s.portBusy with
  | true => exact ⟨_, if_pos hb⟩
  | false =>
    obtain ⟨t, ht⟩ := hk s
    exact ⟨t, (whenPortFree_of_free hb e k).trans ht⟩

/-- A result that depends on INIT and on nothing else: refused before it, a next state after it (60_exceptions.md
R97). -/
def AsksOnlyForInit (s : State) (r : Result) : Prop :=
  (s.initDone = false → r = .refused .notInitialised) ∧ (s.initDone = true → ∃ t, r = .next t)

theorem requireInit_asksOnlyForInit {s : State} {k : State → Result} (hk : AlwaysGoesOn k) :
    AsksOnlyForInit s (requireInit s k) :=
  ⟨fun h0 => requireInit_before h0 k, fun h1 => by rw [requireInit_of_done h1]; exact hk s⟩

theorem textCommand_asksOnlyForInit (bad : Bool) (line : Byte) (col : Nat) (bytes : List Byte) (s : State) :
    AsksOnlyForInit s (textCommand bad line col bytes s) :=
  requireInit_asksOnlyForInit (alwaysGoesOn_argReject_or (alwaysGoesOn_next _))

/-- Every command the block has, other than INIT, asks for INIT and for nothing else. -/
theorem exec_asksOnlyForInit {i : Instr} {s : State} (hport : i.port = .host ∨ i.port = .sequencer)
    (hinit : ∀ q, i ≠ .init q) (hpresent : absentCommand s.params i = false) : AsksOnlyForInit s (exec i s) := by
  cases i with
  | init q => exact absurd rfl (hinit q)
  | setLine line text =>
    rw [exec_setLine]
    exact textCommand_asksOnlyForInit ..
  | setLineAt line col text =>
    rw [exec_setLineAt]
    exact textCommand_asksOnlyForInit ..
  | clearLine line =>
    rw [exec_clearLine]
    exact textCommand_asksOnlyForInit ..
  | setBacklight on =>
    rw [exec, execSetBacklight]
    exact requireInit_asksOnlyForInit (alwaysGoesOn_next _)
  | getButtons =>
    rw [exec, execGetButtons]
    exact requireInit_asksOnlyForInit (alwaysGoesOn_next _)
  | encodeSend line =>
    exact requireInit_asksOnlyForInit (alwaysGoesOn_whenPortFree _ (alwaysGoesOn_argReject_or (alwaysGoesOn_next _)))
  | tryReceive => exact requireInit_asksOnlyForInit (alwaysGoesOn_whenPortFree _ (alwaysGoesOn_next _))
  | wait ms => exact requireInit_asksOnlyForInit (alwaysGoesOn_whenPortFree _ (alwaysGoesOn_next _))
  | diagRead idx =>
    rw [exec_diagRead_present (by simpa [absentCommand] using hpresent)]
    exact requireInit_asksOnlyForInit (alwaysGoesOn_next _)
  | frameOut _ _ _ => simp [Instr.port] at hport
  | frameIn _ _ _ => simp [Instr.port] at hport

/-- A second INIT is refused (40_line_api.md R62). -/
theorem exec_init_again {s : State} (h1 : s.initDone = true) (q : Byte) :
    exec (.init q) s = .refused .doubleInit := by
  rw [exec, execInit, if_pos h1]

/-- INIT goes on before INIT and any other command after it (60_exceptions.md R97). -/
theorem exec_goes_on {i : Instr} {s : State} (hport : i.port = .host ∨ i.port = .sequencer)
    (hpresent : absentCommand s.params i = false) (hready : s.initDone = true ↔ ∀ q, i ≠ .init q) :
    ∃ t, exec i s = .next t := by
  cases h : s.initDone with
  | true => exact (exec_asksOnlyForInit hport (hready.1 h) hpresent).2 h
  | false =>
    obtain ⟨q, rfl⟩ : ∃ q, i = .init q := by simpa [h] using hready
    exact ⟨_, execInit_first q h⟩

/-- Settles O17: the refusals of `deliver` in their order, then the one guard of the command itself. -/
theorem commandsAreRefusedInOrderAndOnlySo : Obligations.CommandsAreRefusedInOrderAndOnlySo := by
  unfold Obligations.CommandsAreRefusedInOrderAndOnlySo
  intro port p s
  refine ⟨fun hnone => deliver_of_not_decodes hnone port s, fun i hd => ⟨fun habsent => ?_, fun hhas => ?_⟩⟩
  · refine deliver_reserved fun j hj => ?_
    obtain rfl : i = j := by simpa [hd] using hj
    exact absentCommand_iff.2 habsent
  · have hpresent : absentCommand s.params i = false := Bool.eq_false_iff.2 (mt absentCommand_iff.1 hhas)
    have hcmd := decodeCommand_port hd
    rw [deliver_of_decodes hd hpresent]
    refine ⟨fun hport => if_pos hport, fun hport => ?_⟩
    rw [if_neg (not_not_intro hport)]
    refine ⟨fun h0 hinit => (exec_asksOnlyForInit hcmd hinit hpresent).1 h0, ?_, exec_goes_on hcmd hpresent⟩
    rintro h1 ⟨q, rfl⟩
    exact exec_init_again h1 q

/-! ### Arrivals -/

/-- Bytes that arrive go to the tail of `RXQ`, whether or not they are a whole frame (60_exceptions.md R99, R103). -/
theorem takeInput_wireIn (bytes : List Byte) (s : State) : takeInput (.wireIn bytes) s = .next (s.rxAppend bytes) := by
  simp only [takeInput]
  split
  · obtain ⟨x, b, c, rfl, rfl⟩ := decodeWireIn_ok ‹_›
    rfl
  · rfl

/-- Settles O44: a listed arrival is the next move, and FRAME_IN appends the six bytes of its frame. -/
theorem arrivalsChangeOnlyTheReceiveQueue : Obligations.ArrivalsChangeOnlyTheReceiveQueue := by
  unfold Obligations.ArrivalsChangeOnlyTheReceiveQueue
  refine ⟨fun s bytes rest hlisted => ?_, fun x b c s => rfl⟩
  rw [step, nextMove_listed hlisted, takeInput_wireIn]
  rfl

end Sys2Proof.Machine
end

section
/-! PROOFS, family 70_reset_and_hazards.md: the drain that does not end while a byte arrives before each of its reads
(O43, O55), by rounds of an arrival and a read; and a `SCRIPT` run that has ended stays ended (O57). -/

open Sys2Proof.Claims

namespace Sys2Proof.Machine

/-! ### One round of the drain: a byte arrives and is read -/

theorem step_arrival {s u : State} {bytes : List Byte} (hm : s.nextMove = (.wireIn bytes, u)) :
    step s = .next (u.rxAppend bytes) := by
  rw [step, hm, takeInput_wireIn]

/-- SEQ's turn in RX_DRAIN discards the head of `RXQ` (42_receive_assembler.md R83). -/
theorem step_drain_read {s u : State} {c : Byte} {q : List Byte} (hm : s.nextMove = (.seqTurn, u))
    (ht : u.txState = .idle) (hr : u.rxState = .drain) (hq : u.rxq = c :: q) :
    step s = .next (State.bump { u with rxq := q } .rxDrained) := by
  rw [step, hm, takeInput, seqTurn_of_drain ht hr, rxDrainStep_byte hq]

theorem run_succ_of_step {s t : State} (h : step s = .next t) (k : Nat) :
    Sys2Proof.core.run (k + 1) s = Sys2Proof.core.run k t := by
  have hstep : Sys2Proof.core.step s = .next t := h
  simp only [Host.Core.run, hstep]

/-- What changes while the drain goes on: `RXQ`, the counters and the moves listed. -/
def SameButDraining (s t : State) : Prop := t = { s with rxq := t.rxq, diag := t.diag, inputs := t.inputs }

theorem SameButDraining.rxState_eq {s t : State} (h : SameButDraining s t) : t.rxState = s.rxState := by rw [h]

theorem SameButDraining.txState_eq {s t : State} (h : SameButDraining s t) : t.txState = s.txState := by rw [h]

theorem SameButDraining.later_eq {s t : State} (h : SameButDraining s t) : t.later = s.later := by rw [h]

theorem SameButDraining.txLog_eq {s t : State} (h : SameButDraining s t) : t.txLog = s.txLog := by rw [h]

theorem SameButDraining.seqStep_eq {s t : State} (h : SameButDraining s t) : t.seqStep = s.seqStep := by rw [h]

/-- From `s` the arrival of one byte leads to `t` and the drain read after it to `u`, with the moves `rest` still to
come: the read finds a byte, so the drain goes on, and `RXQ` is as long as before the arrival. -/
structure DrainRound (rest : List Input) (s t u : State) : Prop where
  arrives    : step s = .next t
  reads      : step t = .next u
  sameMid    : SameButDraining s t
  sameEnd    : SameButDraining s u
  inputs_eq  : u.inputs = rest
  length_rxq : u.rxq.length = s.rxq.length

/-- A byte that arrives just before a drain read keeps the drain from its end (70_reset_and_hazards.md R117). -/
theorem exists_drainRound {s : State} {b : Byte} {rest : List Input} (ht : s.txState = .idle)
    (hr : s.rxState = .drain) (hm : s.nextMove = (.wireIn [b], { s with inputs := .seqTurn :: rest })) :
    ∃ t u, DrainRound rest s t u := by
  obtain ⟨c, q, hq⟩ : ∃ c q, s.rxq ++ [b] = c :: q := List.exists_cons_of_ne_nil (by simp)
  have hlen : q.length = s.rxq.length := by simpa using (congrArg List.length hq).symm
  exact ⟨_, _, {
    arrives    := step_arrival hm
    reads      := step_drain_read (nextMove_listed rfl) ht hr hq
    sameMid    := rfl
    sameEnd    := by rw [bump_eq]; rfl
    inputs_eq  := bump_inputs ..
    length_rxq := by rw [bump_rxq]; exact hlen }⟩

/-! ### Any number of rounds -/

/-- Settles O43: by induction on the bytes to arrive, one round for each. -/
theorem drainRunsWhileBytesArrive : Obligations.DrainRunsWhileBytesArrive := by
  unfold Obligations.DrainRunsWhileBytesArrive
  intro bytes
  induction bytes with
  | nil => exact fun s _ hr _ => ⟨s, rfl, hr, rfl⟩
  | cons b bytes ih =>
    intro s ht hr hi
    obtain ⟨t, u, h⟩ := exists_drainRound ht hr (nextMove_listed hi)
    obtain ⟨v, hrun, hv, hlen⟩ := ih u (h.sameEnd.txState_eq.trans ht) (h.sameEnd.rxState_eq.trans hr) h.inputs_eq
    refine ⟨v, ?_, hv, hlen.trans h.length_rxq⟩
    rw [List.length_cons, Nat.mul_succ, run_succ_of_step h.arrives, run_succ_of_step h.reads]
    exact hrun

/-- Settles O55: by induction on the steps, two at a time. After a round the schedule begins again, and between the
arrival and the read the receiver is in RX_DRAIN too. -/
theorem drainNeverEndsWhileBytesKeepComing : Obligations.DrainNeverEndsWhileBytesKeepComing := by
  unfold Obligations.DrainNeverEndsWhileBytesKeepComing
  intro b s ht hr hi hl n
  induction n using Nat.twoStepInduction generalizing s with
  | zero => exact ⟨s, rfl, hr, rfl, rfl⟩
  | one =>
    obtain ⟨t, u, h⟩ := exists_drainRound ht hr (nextMove_repeating hi hl)
    exact ⟨t, run_succ_of_step h.arrives 0, h.sameMid.rxState_eq.trans hr, h.sameMid.txLog_eq, h.sameMid.seqStep_eq⟩
  | more n ih _ =>
    obtain ⟨t, u, h⟩ := exists_drainRound ht hr (nextMove_repeating hi hl)
    obtain ⟨v, hrun, hv, hlog, hstep⟩ := ih u (h.sameEnd.txState_eq.trans ht) (h.sameEnd.rxState_eq.trans hr)
      h.inputs_eq (h.sameEnd.later_eq.trans hl)
    refine ⟨v, ?_, hv, hlog.trans h.sameEnd.txLog_eq, hstep.trans h.sameEnd.seqStep_eq⟩
    rw [run_succ_of_step h.arrives, run_succ_of_step h.reads]
    exact hrun

/-! ### A `SCRIPT` run that has ended -/

/-- After the script's last command SEQ takes no further step (43_polling_sequencer.md R94): there is nothing to issue,
and the advance leaves `SEQ_PHASE`. -/
theorem seqTurn_of_script_used_up {s : State} (hfree : portFree s) (hmode : s.params.seqMode = .script)
    (hscript : s.script = []) : seqTurn s = .next s := by
  have hb : s.portBusy = false := (portBusy_false_iff s).2 hfree
  have hissue : seqIssue s = .next s := by simp only [seqIssue, State.nextIssue, hmode, hscript]
  have hadvance : seqAdvance s = s := by simp only [seqAdvance, hmode, hscript, List.isEmpty_nil, if_true]
  cases hp : s.seqPhase with
  | stopped => simp [seqTurn, hb, hp]
  | busy => simp [seqTurn, hb, hp, hadvance]
  | issue => simp [seqTurn, hb, hp, hissue]

/-- The next move of an ended run, where one is listed or only SEQ moves, is no command and leaves an ended run. -/
theorem RunEnded.nextMove {s : State} (h : RunEnded s) (hnext : s.inputs ≠ [] ∨ s.later = .repeating []) :
    ∃ e moves, s.nextMove = (e, { s with inputs := moves }) ∧ e.offersCommand = false ∧
      RunEnded { s with inputs := moves } := by
  obtain ⟨hmode, hscript, hphase, ht, hr, hquiet⟩ := h
  cases hi : s.inputs with
  | nil =>
    have hl : s.later = .repeating [] := hnext.resolve_left (not_not_intro hi)
    exact ⟨.seqTurn, s.inputs, nextMove_alone hi hl, rfl, hmode, hscript, hphase, ht, hr, hquiet⟩
  | cons e rest =>
    obtain ⟨he, hrest⟩ := List.forall_mem_cons.1 (hi ▸ hquiet)
    exact ⟨e, rest, nextMove_listed hi, he, hmode, hscript, hphase, ht, hr, hrest⟩

/-- What is no command changes at most `RXQ` of an ended run. -/
theorem RunEnded.takeInput_eq {s : State} (h : RunEnded s) {e : Input} (he : e.offersCommand = false) :
    ∃ bytes, takeInput e s = .next (s.rxAppend bytes) := by
  obtain ⟨hmode, hscript, -, ht, hr, -⟩ := h
  cases e with
  | seqTurn =>
    refine ⟨[], (seqTurn_of_script_used_up ⟨ht, hr⟩ hmode hscript).trans ?_⟩
    rw [State.rxAppend, List.append_nil]
  | wireIn bytes => exact ⟨bytes, takeInput_wireIn bytes s⟩
  | host _ => cases he
  | sequencer _ => cases he
  | wireOut _ => cases he

/-- Settles O57: the step takes a move that is no command, and neither the moves to come nor `RXQ` is observed. -/
theorem endedRunStaysEnded : Obligations.EndedRunStaysEnded := by
  unfold Obligations.EndedRunStaysEnded
  intro s h hnext
  obtain ⟨e, moves, hm, he, hended⟩ := h.nextMove hnext
  obtain ⟨bytes, htake⟩ := hended.takeInput_eq he
  rw [step, hm]
  exact ⟨_, htake, hended, rfl⟩

end Sys2Proof.Machine
end

section
/-! PROOFS, family other, part 1: the round trips of the encoding (O2, O3). A command word is determined by its row of
30_encoding.md R56 and the operands read from it, so two words that decode to the same command are one word; with the first
round trip that is the second. The bytes of an outbound frame decode exactly when they are a frame of some selector and
text. -/

open Sys2Proof.Laws.FitsRow (rowMask rowMatch)

namespace Sys2Proof.Machine

/-! ### Commands: decoding what was encoded -/

theorem decodeCommand_init (port : Byte) : decodeCommand (encodePacket (.init port)) = .ok (.init port) :=
  decodeCommand_encodePacket 0x1 (congrArg (fun b => some (Instr.init b)) BitVec.extractLsb'_append_eq_right)
    (Laws.FitsRow.init port).1

/-- Every command decodes from its own word and text (30_encoding.md R52, R56). -/
theorem decodeCommand_of_encodePacket {i : Instr} (hport : i.port = .host ∨ i.port = .sequencer) :
    decodeCommand (encodePacket i) = .ok i := by
  cases i with
  | init port => exact decodeCommand_init port
  | setLine line text => exact decodeCommand_setLine line text
  | setLineAt line col text => exact decodeCommand_setLineAt line col text
  | clearLine line => exact decodeCommand_clearLine line
  | setBacklight on => exact decodeCommand_setBacklight on
  | getButtons => exact (word_eq_iff_decodes 0x6 rfl rfl rfl).1 rfl
  | encodeSend line => exact decodeCommand_encodeSend line
  | tryReceive => exact (word_eq_iff_decodes 0x8 rfl rfl rfl).1 rfl
  | wait ms => exact decodeCommand_wait ms
  | diagRead idx => exact decodeCommand_diagRead idx
  | frameOut _ _ _ => simp [Instr.port] at hport
  | frameIn _ _ _ => simp [Instr.port] at hport

theorem decode_encode_of_command {i : Instr} (hport : i.port = .host ∨ i.port = .sequencer) :
    decode (encode i) = .ok i := by
  have hencoded : encode i = .command (encodePacket i) := by
    cases i with
    | frameOut _ _ _ => simp [Instr.port] at hport
    | frameIn _ _ _ => simp [Instr.port] at hport
    | _ => rfl
  rw [hencoded]
  exact decodeCommand_of_encodePacket hport

/-! ### Commands: one word for each instruction -/

/-- The operands of a command, read from the fields of a word (30_encoding.md R53). -/
def OperandsIn (w : Word) : Instr → Prop
  | .init port => w.extractLsb' 0 8 = port
  | .setLine line _ => w.extractLsb' 16 8 = line
  | .setLineAt line col _ => w.extractLsb' 16 8 = line ∧ w.extractLsb' 8 8 = col
  | .clearLine line => w.extractLsb' 16 8 = line
  | .setBacklight on => w.getLsbD 0 = on
  | .getButtons => True
  | .encodeSend line => w.extractLsb' 16 8 = line
  | .tryReceive => True
  | .wait ms => w.extractLsb' 0 28 = ms
  | .diagRead idx => w.extractLsb' 0 3 = idx
  | .frameOut _ _ _ => False
  | .frameIn _ _ _ => False

theorem operandsIn_of_commandOfOpcode {op : BitVec 4} {p : Packet} {i : Instr} (hi : commandOfOpcode op p = some i) :
    OperandsIn p.word i := by
  unfold commandOfOpcode at hi
  split at hi
  case h_11 => cases hi
  all_goals cases hi; simp [OperandsIn]

/-- Words that pass the same row agree in the bits of its mask; the others are for the operands to decide. -/
theorem eq_of_row_of_unmasked {v w mask : Word} (hrow : v &&& mask = w &&& mask)
    (hrest : ∀ j < 32, mask.getLsbD j = false → v.getLsbD j = w.getLsbD j) : v = w := by
  refine BitVec.eq_of_getLsbD_eq fun j hj => ?_
  cases hm : mask.getLsbD j with
  | false => exact hrest j hj hm
  | true => simpa [hm] using congrArg (BitVec.getLsbD · j) hrow

theorem getLsbD_eq_of_field {v w : Word} {k n : Nat} (h : v.extractLsb' k n = w.extractLsb' k n) {j : Nat}
    (hj : k ≤ j ∧ j < k + n) : v.getLsbD j = w.getLsbD j := by
  have hbit := congrArg (BitVec.getLsbD · (j - k)) h
  simpa [BitVec.getLsbD_extractLsb', show j - k < n by omega, show k + (j - k) = j by omega] using hbit

/-- Where the mask leaves one field to the operands. -/
theorem eq_of_row_of_field {v w mask : Word} {k n : Nat} (hrow : v &&& mask = w &&& mask)
    (hfield : v.extractLsb' k n = w.extractLsb' k n)
    (hcover : ∀ j < 32, mask.getLsbD j = false → k ≤ j ∧ j < k + n) : v = w :=
  eq_of_row_of_unmasked hrow fun j hj hm => getLsbD_eq_of_field hfield (hcover j hj hm)

/-- The mask of a command's row and its operand fields cover the word (30_encoding.md R53, R56). -/
theorem word_eq_of_row_of_operands {v w : Word} {i : Instr} (hrow : v &&& rowMask i = w &&& rowMask i)
    (hv : OperandsIn v i) (hw : OperandsIn w i) : v = w := by
  cases i with
  | init _ => exact eq_of_row_of_field (mask := 0xFFFFFF00) hrow (hv.trans hw.symm) (by decide)
  | setLine _ _ | clearLine _ | encodeSend _ =>
    exact eq_of_row_of_field (mask := 0xFF00FFFF) hrow (hv.trans hw.symm) (by decide)
  | setLineAt _ _ _ =>
    obtain ⟨hvline, hvcol⟩ := hv
    obtain ⟨hwline, hwcol⟩ := hw
    have hcover : ∀ j < 32, (0xFF0000FF : Word).getLsbD j = false →
        (16 ≤ j ∧ j < 16 + 8) ∨ (8 ≤ j ∧ j < 8 + 8) := by decide
    exact eq_of_row_of_unmasked hrow fun j hj hm => (hcover j hj hm).elim
      (getLsbD_eq_of_field (hvline.trans hwline.symm)) (getLsbD_eq_of_field (hvcol.trans hwcol.symm))
  | setBacklight _ =>
    have hcover : ∀ j < 32, (0xFFFFFFFE : Word).getLsbD j = false → j = 0 := by decide
    exact eq_of_row_of_unmasked hrow fun j hj hm => by rw [hcover j hj hm]; exact hv.trans hw.symm
  | getButtons | tryReceive => exact (BitVec.and_allOnes.symm.trans hrow).trans BitVec.and_allOnes
  | wait _ => exact eq_of_row_of_field (mask := 0xF0000000) hrow (hv.trans hw.symm) (by decide)
  | diagRead _ => exact eq_of_row_of_field (mask := 0xFFFFFFF8) hrow (hv.trans hw.symm) (by decide)
  | frameOut _ _ _ => exact hv.elim
  | frameIn _ _ _ => exact hv.elim

/-- No two words mean the same command. -/
theorem word_eq_of_decodes_same {p q : Packet} {i : Instr} (hp : decodeCommand p = .ok i)
    (hq : decodeCommand q = .ok i) : p.word = q.word := by
  obtain ⟨hpi, hprow⟩ := decodeCommand_ok_iff.1 hp
  obtain ⟨hqi, hqrow⟩ := decodeCommand_ok_iff.1 hq
  exact word_eq_of_row_of_operands (hprow.trans hqrow.symm) (operandsIn_of_commandOfOpcode hpi)
    (operandsIn_of_commandOfOpcode hqi)

/-- A command is well formed whatever its operands: each has the width of its field. -/
theorem wellFormed_of_command {i : Instr} (hport : i.port = .host ∨ i.port = .sequencer) : i.wellFormed = true := by
  cases i with
  | frameOut _ _ _ => simp [Instr.port] at hport
  | _ => rfl

/-! ### The outbound frame -/

/-- The fields of a selector byte (30_encoding.md R46): line, backlight, and the bits that are zero. -/
theorem selectorByte_fields (line backlight : BitVec 1) :
    (selectorByte line backlight).extractLsb' 0 1 = line ∧
      (selectorByte line backlight).extractLsb' 1 1 = backlight ∧
      (selectorByte line backlight).extractLsb' 2 6 = 0 := by
  revert line backlight
  decide

/-- A byte whose bits 7:2 are zero is the selector of its bits 0 and 1 (30_encoding.md R46). -/
theorem selectorByte_of_fields {sel : Byte} (h : sel.extractLsb' 2 6 = 0) :
    selectorByte (sel.extractLsb' 0 1) (sel.extractLsb' 1 1) = sel := by
  calc selectorByte (sel.extractLsb' 0 1) (sel.extractLsb' 1 1)
      = sel.extractLsb' 2 6 ++ sel.extractLsb' 1 1 ++ sel.extractLsb' 0 1 := by rw [h]; rfl
    _ = sel.extractLsb' 1 7 ++ sel.extractLsb' 0 1 := by
      rw [BitVec.extractLsb'_append_extractLsb'_eq_extractLsb' (start₁ := 1) (len₁ := 1) rfl]
    _ = sel := BitVec.extractLsb'_append_extractLsb'

section
variable (sel : Byte) {text : List Byte} (hlen : text.length = 16)
include hlen

/-- Bytes 5 to 20 of an outbound frame are its text (30_encoding.md R45). -/
theorem frameOutBytes_text : ((frameOutBytes sel text).drop 5).take 16 = text :=
  List.take_left' hlen

/-- Byte 21 of an outbound frame is its checksum (30_encoding.md R45). -/
theorem frameOutBytes_checksum : (frameOutBytes sel text).getD 21 0 = checksum sel text := by
  rw [frameOutBytes, List.getD_append_right _ _ _ _ (by simp [hlen])]
  simp [hlen]

end

/-- The decoder of the outgoing wire reads back the selector and the text of a frame (30_encoding.md R45, R46). -/
theorem decodeWireOut_frameOutBytes (line backlight : BitVec 1) {text : List Byte} (hlen : text.length = 16) :
    decodeWireOut (frameOutBytes (selectorByte line backlight) text) = .ok (.frameOut line backlight text) := by
  obtain ⟨hline, hback, hzero⟩ := selectorByte_fields line backlight
  generalize selectorByte line backlight = sel at *
  have hsel : (frameOutBytes sel text).getD 4 0 = sel := rfl
  have hheader : (frameOutBytes sel text).take 4 = headerOut := rfl
  have htotal : (frameOutBytes sel text).length = frameOutLen := by rw [length_frameOutBytes, hlen]
  simp only [decodeWireOut, width, htotal, hheader, hsel, hzero, frameOutBytes_text sel hlen,
    frameOutBytes_checksum sel hlen, ne_eq, not_true_eq_false, if_false, hline, hback]

/-- 22 bytes that begin with the header, cut where an outbound frame has its fields (30_encoding.md R45). -/
theorem outbound_parts {bytes : List Byte} (hlen : bytes.length = 22) (hheader : bytes.take 4 = headerOut) :
    bytes = headerOut ++ [bytes.getD 4 0] ++ (bytes.drop 5).take 16 ++ [bytes.getD 21 0] := by
  have hsel : bytes.drop 4 = bytes.getD 4 0 :: bytes.drop 5 := by
    rw [List.drop_eq_getElem_cons (by omega), List.getD_eq_getElem]
  have hsum : bytes.drop 21 = [bytes.getD 21 0] := by
    rw [List.drop_eq_getElem_cons (by omega), List.getD_eq_getElem, List.drop_eq_nil_of_le (by omega)]
  calc bytes = bytes.take 4 ++ bytes.drop 4 := (List.take_append_drop 4 bytes).symm
    _ = headerOut ++ (bytes.getD 4 0 :: ((bytes.drop 5).take 16 ++ (bytes.drop 5).drop 16)) := by
      rw [hheader, hsel, List.take_append_drop]
    _ = headerOut ++ [bytes.getD 4 0] ++ (bytes.drop 5).take 16 ++ [bytes.getD 21 0] := by
      rw [List.drop_drop, hsum]
      simp only [List.cons_append, List.nil_append]

/-- What decodes on the outgoing wire is the frame of the selector and the text it decodes to. -/
theorem frameOutBytes_of_decodeWireOut {bytes : List Byte} {i : Instr} (h : decodeWireOut bytes = .ok i) :
    ∃ line backlight text, i = .frameOut line backlight text ∧ text.length = 16 ∧
      bytes = frameOutBytes (selectorByte line backlight) text := by
  unfold decodeWireOut at h
  simp only at h
  split_ifs at h with hlen hheader hzero hsum
  injection h with h
  subst h
  simp only [ne_eq, Decidable.not_not] at hlen hheader hzero hsum
  refine ⟨_, _, _, rfl, by simp [hlen], ?_⟩
  rw [selectorByte_of_fields hzero, frameOutBytes, ← hsum]
  exact outbound_parts hlen hheader

/-- Settles O2: each command's lemma, and the wires' decoders on the frames they encode. -/
theorem encodeThenDecodeGivesTheInstruction : Obligations.EncodeThenDecodeGivesTheInstruction := by
  unfold Obligations.EncodeThenDecodeGivesTheInstruction
  intro i hwf
  cases i with
  | frameOut line backlight text =>
    exact decodeWireOut_frameOutBytes line backlight (by simpa [Instr.wellFormed] using hwf)
  | frameIn x b c => exact decodeWireIn_frameInBytes x b c
  | _ => exact decode_encode_of_command (by simp [Instr.port])

/-- Settles O3: the word of a command is the only one that decodes to it, and a frame is made of the fields it decodes
to. -/
theorem decodedInstructionEncodesBack : Obligations.DecodedInstructionEncodesBack := by
  unfold Obligations.DecodedInstructionEncodesBack
  refine ⟨fun p i hd => ?_, fun bytes i hd => ?_, fun bytes i hd => ?_⟩
  · have hport := decodeCommand_port hd
    exact ⟨wellFormed_of_command hport, word_eq_of_decodes_same (decodeCommand_of_encodePacket hport) hd⟩
  · obtain ⟨line, backlight, text, rfl, hlen, rfl⟩ := frameOutBytes_of_decodeWireOut hd
    exact ⟨by simpa [Instr.wellFormed] using hlen, rfl⟩
  · obtain ⟨x, b, c, rfl, rfl⟩ := decodeWireIn_ok hd
    exact ⟨rfl, rfl⟩

end Sys2Proof.Machine
end

section
/-! PROOFS, family other, part 2: what SEQ's turn is with no command in progress, in both modes (O46, O47). An issue runs the
command that `issues` names, whichever the mode; that is said once, and the statements on SEQ's turn are cases of it. -/

open Sys2Proof.Claims

namespace Sys2Proof.Machine

/-! ### SEQ's turn on a free port -/

section
variable {s : State} (hfree : portFree s)
include hfree

theorem seqTurn_of_stopped (hphase : s.seqPhase = .stopped) : seqTurn s = .next s := by
  simp [seqTurn, (portBusy_false_iff s).2 hfree, hphase]

theorem seqTurn_of_completed (hphase : s.seqPhase = .busy) : seqTurn s = .next (seqAdvance s) := by
  simp [seqTurn, (portBusy_false_iff s).2 hfree, hphase]

theorem seqTurn_of_issue (hphase : s.seqPhase = .issue) : seqTurn s = seqIssue s := by
  simp [seqTurn, (portBusy_false_iff s).2 hfree, hphase]

end

theorem seqAdvance_auto {s : State} (hmode : s.params.seqMode = .auto) :
    seqAdvance s = { s with seqStep := nextStep s.seqStep, seqPhase := .issue } := by
  simp only [seqAdvance, hmode]

theorem seqAdvance_script {s : State} (hmode : s.params.seqMode = .script) (hscript : s.script ≠ []) :
    seqAdvance s = { s with seqPhase := .issue } := by
  simp [seqAdvance, hmode, hscript]

/-! ### The issue of a command -/

/-- What `issues` says, by the packet SEQ takes: the row of `SEQ_STEP` decodes to its command, as the script's next command
does to its own. -/
theorem issues_iff {s : State} {i : Instr} {left : List Packet} :
    issues s i left ↔
      portFree s ∧ s.seqPhase = .issue ∧ ∃ p, NextIssue s p left ∧ decodeCommand p = .ok i := by
  constructor
  · rintro ⟨hfree, hphase, ⟨hmode, rfl, hleft⟩ | ⟨hmode, p, hscript, hd⟩⟩
    · exact ⟨hfree, hphase, _, .inl ⟨hmode, rfl, hleft⟩, decodeCommand_cycleCommand _ _⟩
    · exact ⟨hfree, hphase, p, .inr ⟨hmode, hscript⟩, hd⟩
  · rintro ⟨hfree, hphase, p, hnext, hd⟩
    exact hnext.issues hfree hphase hd

/-- A command delivered on its own port is run: where it is a DIAG_READ without the counters, running it is the same refusal
(30_encoding.md R57). -/
theorem deliver_of_own_port {p : Packet} {i : Instr} {port : Port} (hd : decodeCommand p = .ok i)
    (hport : i.port = port) (s : State) : deliver port p s = exec i s := by
  cases habsent : absentCommand s.params i with
  | false => rw [deliver_of_decodes hd habsent, if_neg (not_not_intro hport)]
  | true =>
    obtain ⟨⟨idx, rfl⟩, hdiag⟩ := absentCommand_iff.1 habsent
    rw [exec_diagRead_absent hdiag]
    simp only [deliver, hd, habsent, if_true]

/-- A command of the sequencer port is neither INIT nor DIAG_READ, so it asks for INIT and for nothing else. -/
theorem sequencer_asksOnlyForInit {i : Instr} (hport : i.port = .sequencer) (s : State) :
    AsksOnlyForInit s (exec i s) := by
  refine exec_asksOnlyForInit (.inr hport) ?_ (absentCommand_of_ne ?_ _)
  · rintro q rfl; cases hport
  · rintro idx rfl; cases hport

/-- A command of the sequencer port that SEQ issues after INIT runs, and is marked busy (43_polling_sequencer.md R89,
R94). -/
theorem seqTurn_of_issues {s : State} {i : Instr} {left : List Packet} (h1 : s.initDone = true)
    (h : issues s i left) (hport : i.port = .sequencer) :
    ∃ t, exec i { s with script := left } = .next t ∧ seqTurn s = .next { t with seqPhase := .busy } := by
  obtain ⟨hfree, hphase, p, hnext, hd⟩ := issues_iff.1 h
  obtain ⟨t, ht⟩ := (sequencer_asksOnlyForInit hport { s with script := left }).2 h1
  refine ⟨t, ht, ?_⟩
  rw [seqTurn_of_issue hfree hphase, seqIssue_of hnext, deliver_of_own_port hd hport, ht]
  rfl

/-! ### The cycle -/

theorem issues_cycleCommand {s : State} (hfree : portFree s) (hphase : s.seqPhase = .issue)
    (hmode : s.params.seqMode = .auto) : issues s (cycleCommand s.params s.seqStep) s.script :=
  ⟨hfree, hphase, .inl ⟨hmode, rfl, rfl⟩⟩

/-- Settles O46: the row of the step is what SEQ issues, and an advance goes to the step after it. -/
theorem sequencerRunsTheEightSteps : Obligations.SequencerRunsTheEightSteps := by
  unfold Obligations.SequencerRunsTheEightSteps
  intro s hfree hmode
  refine ⟨fun hphase h1 => ?_, fun hphase => ?_, seqTurn_of_stopped hfree⟩
  · exact seqTurn_of_issues h1 (issues_cycleCommand hfree hphase hmode) (pollCommand_cycleCommand _ _).port_eq
  · exact ⟨nextStep s.seqStep, stepNumber_nextStep _, by rw [seqTurn_of_completed hfree hphase, seqAdvance_auto hmode]⟩

/-! ### The script -/

/-- A command of another port is refused (60_exceptions.md R97). -/
theorem deliver_of_other_port {p : Packet} {i : Instr} {port : Port} (hd : decodeCommand p = .ok i)
    (hport : i.port ≠ port) (s : State) : ∃ r, deliver port p s = .refused r := by
  cases habsent : absentCommand s.params i with
  | true => exact ⟨.reserved, deliver_reserved fun j hj => by rw [hd] at hj; cases hj; exact habsent⟩
  | false => exact ⟨.wrongPort, by rw [deliver_of_decodes hd habsent, if_pos hport]⟩

/-- A command the free sequencer port takes leaves the script and `SEQ_STEP` (43_polling_sequencer.md R94). -/
theorem exec_sequencer_keeps_script {s t : State} {i : Instr} (hfree : portFree s) (hport : i.port = .sequencer)
    (h : exec i s = .next t) : t.script = s.script ∧ t.seqStep = s.seqStep := by
  obtain ⟨-, ⟨hbusy, -⟩ | ⟨-, hstart⟩⟩ := exec_sequencer hport h
  · rw [(portBusy_false_iff s).2 hfree] at hbusy; cases hbusy
  · rw [hstart.frame]; exact ⟨rfl, rfl⟩

/-- Settles O47: the script's first command is what SEQ issues; an advance with commands left and SEQ's turn with none are
the cases of `seqAdvance` and of the end of a script. -/
theorem scriptIsIssuedInOrder : Obligations.ScriptIsIssuedInOrder := by
  unfold Obligations.ScriptIsIssuedInOrder
  intro s hfree hmode
  refine ⟨fun p rest i hphase h1 hscript hd => ⟨fun hport => ?_, fun hport => ?_⟩,
    seqTurn_of_script_used_up hfree hmode, fun hphase hscript => ?_⟩
  · obtain ⟨t, hexec, hturn⟩ := seqTurn_of_issues h1 ⟨hfree, hphase, .inr ⟨hmode, p, hscript, hd⟩⟩ hport
    obtain ⟨hleft, hstep⟩ := exec_sequencer_keeps_script (s := { s with script := rest }) hfree hport hexec
    exact ⟨t, hexec, hleft, hstep, hturn⟩
  · obtain ⟨r, hr⟩ := deliver_of_other_port hd (port := .sequencer) (by rw [hport]; decide) { s with script := rest }
    exact ⟨r, by rw [seqTurn_of_issue hfree hphase, seqIssue_of (.inr ⟨hmode, hscript⟩), hr]; rfl⟩
  · rw [seqTurn_of_completed hfree hphase, seqAdvance_script hmode hscript]

end Sys2Proof.Machine
end

section
/-! PROOFS, family other, part 3: how a move reaches an instruction (O16), and FRAME_OUT as a move: SEQ's issue of
ENCODE_SEND or nothing (O33), and the frame that this issue, left alone, sends (O34). -/

open Sys2Proof.Claims

namespace Sys2Proof.Machine

/-! ### The command SEQ is about to issue -/

theorem issueNow_of_issues {s : State} {i : Instr} {left : List Packet} (h : issues s i left) :
    ∃ p, s.issueNow = some (p, { s with script := left }) ∧ decodeCommand p = .ok i := by
  obtain ⟨hfree, hphase, p, hnext, hd⟩ := issues_iff.1 h
  exact ⟨p, (issueNow_some_iff ..).2 ⟨(portBusy_false_iff s).2 hfree, hphase, nextIssue_of hnext⟩, hd⟩

theorem issues_of_issueNow {s t : State} {p : Packet} {i : Instr} (h : s.issueNow = some (p, t))
    (hd : decodeCommand p = .ok i) : issues s i t.script := by
  obtain ⟨hbusy, hphase, hnext⟩ := (issueNow_some_iff ..).1 h
  exact (nextIssue_some hnext).2.issues ((portBusy_false_iff s).1 hbusy) hphase hd

theorem issuesNow_iff {s : State} {p : Packet} {i : Instr} (hd : decodeCommand p = .ok i) :
    s.issuesNow p = true ↔ ∃ left, issues s i left := by
  constructor
  · intro h
    unfold State.issuesNow at h
    split at h
    · cases h
    · exact ⟨_, issues_of_issueNow ‹_› ((of_decide_eq_true h).trans hd)⟩
  · rintro ⟨left, h⟩
    obtain ⟨q, hq, hdq⟩ := issueNow_of_issues h
    simp only [State.issuesNow, hq, hdq, hd, decide_true]

/-! ### A command presented on the sequencer port from outside SEQ -/

section
variable {s : State} {p : Packet} {i : Instr} (hd : decodeCommand p = .ok i) (hport : i.port = .sequencer)
include hd hport

/-- Before INIT it is refused, as it is where SEQ issues it (60_exceptions.md R97). -/
theorem offer_before (h0 : s.initDone = false) : offer p s = exec i s := by
  have hrefused := (sequencer_asksOnlyForInit hport s).1 h0
  simp only [offer, deliver_of_own_port hd hport, hrefused]

/-- After INIT it gives SEQ its turn, and stays pending unless it is what SEQ issues (20_memory.md R40). -/
theorem offer_after (h1 : s.initDone = true) :
    offer p s = seqTurn (if s.issuesNow p then s else s.hold (.sequencer p)) := by
  obtain ⟨t, ht⟩ := (sequencer_asksOnlyForInit hport s).2 h1
  simp only [offer, deliver_of_own_port hd hport, ht]

theorem offer_of_issues {left : List Packet} (h1 : s.initDone = true) (h : issues s i left) :
    offer p s = seqTurn s := by
  rw [offer_after hd hport h1, if_pos ((issuesNow_iff hd).2 ⟨left, h⟩)]

theorem offer_of_not_issues (h1 : s.initDone = true) (h : ∀ left, ¬ issues s i left) :
    offer p s = seqTurn { s with inputs := .sequencer p :: s.inputs } := by
  rw [offer_after hd hport h1, if_neg (mt (issuesNow_iff hd).1 (not_exists.2 h))]
  rfl

end

theorem step_of_nextMove {s s' : State} {e : Input} (hm : s.nextMove = (e, s')) : step s = takeInput e s' := by
  rw [step, hm]

/-- Settles O16: a step takes its next move, and each kind of move is one of the lemmas above; the moves listed come first,
then the schedule's. -/
theorem stepRunsTheDecodedInstruction : Obligations.StepRunsTheDecodedInstruction := by
  unfold Obligations.StepRunsTheDecodedInstruction
  intro s s' i
  refine ⟨fun p hm hd hport => ?_, fun bytes hm hd => ?_, fun bytes hm hd => ?_, step_of_nextMove,
    fun left hm h1 hissues hport => ?_,
    fun p hm hd hport => ⟨fun h0 => ?_, fun left h1 hissues => ?_, fun h1 hnone => ?_⟩,
    fun e rest => nextMove_listed, fun e rest => nextMove_repeating, nextMove_alone, nextMove_free⟩
  · exact (step_of_nextMove hm).trans (deliver_of_own_port hd hport s')
  · rw [step_of_nextMove hm, takeInput, hd]
  · rw [step_of_nextMove hm, takeInput, hd]
  · rw [step_of_nextMove hm]
    exact seqTurn_of_issues h1 hissues hport
  · exact (step_of_nextMove hm).trans (offer_before hd hport h0)
  · rw [step_of_nextMove hm, takeInput, offer_of_issues hd hport h1 hissues]
    exact seqTurn_of_issues h1 hissues hport
  · exact (step_of_nextMove hm).trans (offer_of_not_issues hd hport h1 hnone)

/-! ### FRAME_OUT as a move -/

theorem sendsFrame_iff {s : State} {line : Byte} {bytes : List Byte} :
    s.sendsFrame line bytes = true ↔ s.initDone = true ∧ bytes = frame line s.backlight (s.lineStore line) := by
  simp only [State.sendsFrame, Bool.and_eq_true, decide_eq_true_eq]

section
variable {line backlight : BitVec 1} {text : List Byte} {s : State}

/-- Where SEQ is about to issue ENCODE_SEND of the frame's line, and the frame built now has its bytes, FRAME_OUT is that
snapshot, marked busy (log 9). -/
theorem exec_frameOut_of_issues {left : List Packet} (h1 : s.initDone = true)
    (h : issues s (.encodeSend (line.zeroExtend 8)) left)
    (hbytes : frameOutBytes (selectorByte line backlight) text =
      frame (line.zeroExtend 8) s.backlight (s.lineStore (line.zeroExtend 8))) :
    exec (.frameOut line backlight text) s =
      .next { snapshot (line.zeroExtend 8) { s with script := left } with seqPhase := .busy } := by
  obtain ⟨p, hissue, hd⟩ := issueNow_of_issues h
  simp only [exec, execFrameOut, hissue]
  exact if_pos ⟨hd, sendsFrame_iff.2 ⟨h1, hbytes⟩⟩

/-- Anywhere else FRAME_OUT changes nothing (log 9). -/
theorem exec_frameOut_of_not_issues
    (h : s.initDone = false ∨ (∀ left, ¬ issues s (.encodeSend (line.zeroExtend 8)) left) ∨
      frameOutBytes (selectorByte line backlight) text ≠
        frame (line.zeroExtend 8) s.backlight (s.lineStore (line.zeroExtend 8))) :
    exec (.frameOut line backlight text) s = .next s := by
  simp only [exec, execFrameOut]
  split
  · rfl
  · rename_i p t hissue
    refine if_neg ?_
    rintro ⟨hd, hsends⟩
    obtain ⟨h1, hbytes⟩ := sendsFrame_iff.1 hsends
    obtain h0 | hnone | hother := h
    · exact absurd_before_init h1 h0
    · exact hnone _ (issues_of_issueNow hissue hd)
    · exact hother hbytes

end

theorem toNat_zeroExtend_line (line : BitVec 1) : (line.zeroExtend 8).toNat ≤ 1 := by
  rw [BitVec.toNat_setWidth_of_le (by decide)]
  omega

/-- SEQ's issue of ENCODE_SEND of an existing line is the snapshot, marked busy (41_frame_encoder.md R73). -/
theorem seqTurn_of_issues_encodeSend {s : State} {line : Byte} {left : List Packet} (hl : line.toNat ≤ 1)
    (h1 : s.initDone = true) (h : issues s (.encodeSend line) left) :
    exec (.encodeSend line) { s with script := left } = .next (snapshot line { s with script := left }) ∧
      seqTurn s = .next { snapshot line { s with script := left } with seqPhase := .busy } := by
  have hsnap := exec_encodeSend_of_line (s := { s with script := left }) hl h1 (issues_iff.1 h).1
  obtain ⟨t, ht, hturn⟩ := seqTurn_of_issues h1 h rfl
  rw [hsnap] at ht
  injection ht with ht
  subst ht
  exact ⟨hsnap, hturn⟩

/-- Settles O33: FRAME_OUT and SEQ's turn are the same issue of ENCODE_SEND, and FRAME_OUT is nothing else. -/
theorem frameOutStartsTheFrameTheBlockSends : Obligations.FrameOutStartsTheFrameTheBlockSends := by
  unfold Obligations.FrameOutStartsTheFrameTheBlockSends
  intro line backlight text s
  refine ⟨fun left h1 hissues hbytes => ?_, exec_frameOut_of_not_issues⟩
  obtain ⟨hexec, hturn⟩ := seqTurn_of_issues_encodeSend (toNat_zeroExtend_line line) h1 hissues
  exact ⟨_, hexec, (toList_toTxBuf (length_frame _ _ _)).trans hbytes.symm,
    exec_frameOut_of_issues h1 hissues hbytes, hturn⟩

/-- Settles O34: FRAME_OUT and SEQ's step are the same snapshot, and the encoder left alone sends all of its frame. -/
theorem encodeSendRefinesFrameOut : Obligations.EncodeSendRefinesFrameOut := by
  unfold Obligations.EncodeSendRefinesFrameOut
  intro line backlight text left s h1 hissues ha hmax hbytes
  obtain ⟨buf, hbuf, hsnap⟩ := snapshot_eq (line.zeroExtend 8) { s with script := left }
  obtain ⟨-, hturn⟩ := seqTurn_of_issues_encodeSend (toNat_zeroExtend_line line) h1 hissues
  have hframeOut := exec_frameOut_of_issues h1 hissues hbytes
  rw [hsnap] at hturn hframeOut
  obtain ⟨t, hsends, hidle⟩ := sends_frame
    (s := { s with
      script := left, txBuf := buf, txIdx := 0, txPoll := 0, txState := .poll, seqPhase := .busy }) ha rfl rfl rfl hmax
  obtain ⟨k, hrun⟩ := hsends.run
  have hbuf : buf.toList = frameOutBytes (selectorByte line backlight) text := hbuf.trans hbytes.symm
  exact ⟨_, t, k, hframeOut, (step_of_nextMove (nextMove_alone ha.1 ha.2)).trans hturn, hrun, hidle, hbuf ▸ hsends.log⟩

end Sys2Proof.Machine
end

section
/-! PROOFS, family other, part 4: the busy sequencer port (O18), power-on (O12), INIT (O19), CLEAR_LINE by SET_LINE (O23) and
WAIT (O45). -/

open Sys2Proof.Claims

namespace Sys2Proof.Machine

/-- A command of the sequencer port offered while another is in progress there lets that one go on (20_memory.md R40). -/
theorem exec_sequencer_of_busy {s : State} {i : Instr} (h1 : s.initDone = true) (hbusy : s.portBusy = true)
    (hport : i.port = .sequencer) :
    exec i s = .next { microStep s with inputs := .sequencer (encodePacket i) :: s.inputs } := by
  obtain ⟨t, ht⟩ := (sequencer_asksOnlyForInit hport s).2 h1
  obtain ⟨-, ⟨-, rfl⟩ | ⟨hfree, -⟩⟩ := exec_sequencer hport ht
  · exact ht
  · rw [hbusy] at hfree; cases hfree

theorem portBusy_of_not_free {s : State} (h : ¬ portFree s) : s.portBusy = true := by
  simpa using mt (portBusy_false_iff s).1 h

/-- Settles O18: the three are the sequencer port's commands, and no micro-step writes `WAIT_MS`, `TXBUF` or the lines. -/
theorem busySequencerPortMakesCommandsWait : Obligations.BusySequencerPortMakesCommandsWait := by
  unfold Obligations.BusySequencerPortMakesCommandsWait
  intro s i h1 hnotFree hi
  have hport : i.port = .sequencer := by
    obtain rfl | ⟨line, rfl⟩ | ⟨ms, rfl⟩ := hi <;> rfl
  have hbusy := portBusy_of_not_free hnotFree
  refine ⟨microStep s, exec_sequencer_of_busy h1 hbusy hport, seqTurn_of_portBusy hbusy, ?_⟩
  rw [microStep_frame]
  exact ⟨rfl, rfl, rfl⟩

/-- At power-on nothing has been sent and no frame is in progress (10_state.md R28). -/
theorem PowerOn.txLogFramed {s : State} (h : PowerOn s) : TxLogFramed s := by
  obtain ⟨params, inputs, later, script, answers, rxq, -, rfl⟩ := h
  exact (txLogFramed_of_idle rfl).2 ⟨[], nofun, rfl⟩

/-- Settles O12: every power-on state meets both, and reset is one of them. -/
theorem invariantHoldsAtPowerOn : Obligations.InvariantHoldsAtPowerOn := by
  unfold Obligations.InvariantHoldsAtPowerOn
  exact ⟨reset_powerOn.invariant, reset_powerOn.txLogFramed, fun s h => ⟨h.invariant, h.txLogFramed⟩⟩

/-- Settles O19: the word, the first INIT as one next state, and the refusal of a second. -/
theorem initBindsZeroesAndStarts : Obligations.InitBindsZeroesAndStarts := by
  unfold Obligations.InitBindsZeroesAndStarts
  intro port s
  exact ⟨decodeCommand_init port, execInit_first port, fun h1 => exec_init_again h1 port⟩

/-- What SET_LINE writes for 16 spaces is what CLEAR_LINE writes (40_line_api.md R63, R65). -/
theorem setLineBytes_spaces :
    setLineBytes (List.replicate 16 spaceByte) = List.replicate 16 spaceByte ++ [nulByte] := by
  decide

/-- Settles O23: both are the same text command, and the bytes they write are the same. -/
theorem clearLineIsSetLineOfSpaces : Obligations.ClearLineIsSetLineOfSpaces := by
  unfold Obligations.ClearLineIsSetLineOfSpaces
  intro line s
  rw [exec_clearLine, exec_setLine, setLineBytes_spaces]

theorem exec_wait_before {s : State} (h0 : s.initDone = false) (ms : Millis) :
    exec (.wait ms) s = .refused .notInitialised :=
  (sequencer_asksOnlyForInit rfl s).1 h0

/-- Settles O45: the word, the refusal before INIT, and the delay recorded. -/
theorem waitRecordsItsDelay : Obligations.WaitRecordsItsDelay := by
  unfold Obligations.WaitRecordsItsDelay
  intro ms s
  exact ⟨decodeCommand_wait ms, fun h0 => exec_wait_before h0 ms, fun h1 hfree => exec_wait_of_free h1 hfree ms⟩

end Sys2Proof.Machine
end
